-- ==== Sys2Proof/Word.lean ====
section
/-! DEFINITION. The word types of the MCU1 block (00_scope.md R8, 20_memory.md R46). -/

namespace Sys2Proof

/-- A 32-bit register value, command word, operand word or byte address (R8, R46). -/
abbrev Word := BitVec 32

/-- One byte of buffer memory (R53). -/
abbrev Byte := BitVec 8

/-- A 16-bit SPI frame, pin-level vector or receive buffer (R32, R38). -/
abbrev Half := BitVec 16

end Sys2Proof
end

