-- ==== Sys2Proof/Syntax.lean ====
section
/-! DEFINITION. The commands of the MCU1 block, one constructor per row of spec/opcode_table.json (30_encoding.md
R73). Operand fields are kept as the command word spells them: a value out of range decodes and is faulted when it
executes (R79). -/

namespace Sys2Proof

/-- The sixteen commands. -/
inductive Instr where
  /-- IRQ_SET_ENABLED (R84). -/
  | irqSetEnabled (index : BitVec 8) (enabled : Bool)
  /-- IRQ_SET_PRIORITY (R85). -/
  | irqSetPriority (index priority : BitVec 8)
  /-- EXTI_CONFIGURE (R92). -/
  | extiConfigure (pin port trigger : BitVec 8)
  /-- EXTI_HANDLE (R97). -/
  | extiHandle (pin : BitVec 8)
  /-- GPIO_CONFIGURE (R102), with its operand word `CFG` (R77). -/
  | gpioConfigure (pin port mode : BitVec 8) (cfg : Word)
  /-- GPIO_READ_PIN (R103). -/
  | gpioReadPin (pin port : BitVec 8)
  /-- GPIO_WRITE_PIN (R104). -/
  | gpioWritePin (pin port : BitVec 8) (value : Bool)
  /-- GPIO_TOGGLE_PIN (R105). -/
  | gpioTogglePin (pin port : BitVec 8)
  /-- SPI_INIT (R108), with its operand word `CR1CFG`. -/
  | spiInit (inst : BitVec 8) (dff errie : Bool) (cr1cfg : Word)
  /-- SPI_TRANSMIT (R109). -/
  | spiTransmit (inst : BitVec 8) (buf len : Word)
  /-- SPI_RECEIVE (R110). -/
  | spiReceive (inst : BitVec 8) (buf len : Word)
  /-- SPI_START_TX (R111). -/
  | spiStartTx (inst : BitVec 8) (buf len : Word)
  /-- SPI_START_RX (R112). -/
  | spiStartRx (inst : BitVec 8) (buf len : Word)
  /-- SPI_IRQ_HANDLE (R113). -/
  | spiIrqHandle (inst : BitVec 8)
  /-- SPI_CLOSE_TX (R122). -/
  | spiCloseTx (inst : BitVec 8)
  /-- SPI_CLOSE_RX (R122). -/
  | spiCloseRx (inst : BitVec 8)
  deriving DecidableEq, Repr, Inhabited

/-! ## Pseudo-instructions (R83), each the single command it stands for -/

def Instr.irqEnable (i : BitVec 8) : Instr := .irqSetEnabled i true
def Instr.irqDisable (i : BitVec 8) : Instr := .irqSetEnabled i false
def Instr.gpioSet (n p : BitVec 8) : Instr := .gpioWritePin n p true
def Instr.gpioClear (n p : BitVec 8) : Instr := .gpioWritePin n p false
def Instr.extiRising (n p : BitVec 8) : Instr := .extiConfigure n p 1
def Instr.extiFalling (n p : BitVec 8) : Instr := .extiConfigure n p 0
def Instr.extiBoth (n p : BitVec 8) : Instr := .extiConfigure n p 2

end Sys2Proof
end

