-- ==== Sys2Proof/WellFormed.lean ====
section
/-! DEFINITION. Well-formed commands: those that have an encoding (30_encoding.md R72 to R78). Every operand field
has exactly the width its byte field or operand word gives it, so the one thing left to check is that the reserved
bits of a `CFG` word are zero (R77). A value outside the range of R79 is well-formed: it is faulted on execution. -/

namespace Sys2Proof

/-- The reserved bits `[7:5]` and `[31:12]` of a `CFG` word (R77). -/
def cfgReserved : Word := 0xFFFFF0E0

/-- A command that a command word and its operand words can spell (R77, R78). -/
def Instr.wellFormed : Instr → Bool
  | .irqSetEnabled _ _ => true
  | .irqSetPriority _ _ => true
  | .extiConfigure _ _ _ => true
  | .extiHandle _ => true
  | .gpioConfigure _ _ _ cfg => cfg &&& cfgReserved == 0
  | .gpioReadPin _ _ => true
  | .gpioWritePin _ _ _ => true
  | .gpioTogglePin _ _ => true
  | .spiInit _ _ _ _ => true
  | .spiTransmit _ _ _ => true
  | .spiReceive _ _ _ => true
  | .spiStartTx _ _ _ => true
  | .spiStartRx _ _ _ => true
  | .spiIrqHandle _ => true
  | .spiCloseTx _ => true
  | .spiCloseRx _ => true

end Sys2Proof
end

