-- ==== Sys2Proof/Decode.lean ====
section
/-! DEFINITION. The command words (30_encoding.md R72 to R81): a total decoder that refuses by name, the encoder,
and the numbering the opcode table uses. -/

namespace Sys2Proof

/-- A row of the opcode map (R73). -/
inductive Op where
  | irqSetEnabled | irqSetPriority | extiConfigure | extiHandle
  | gpioConfigure | gpioReadPin | gpioWritePin | gpioTogglePin
  | spiInit | spiTransmit | spiReceive | spiStartTx | spiStartRx | spiIrqHandle | spiCloseTx | spiCloseRx
  deriving DecidableEq, Repr, Inhabited

/-- Why a command word spells no operation (R78). -/
inductive DecodeRefusal where
  /-- The program ends before the command word. -/
  | endOfProgram
  /-- `OP` is unassigned. -/
  | unassignedOpcode
  /-- A reserved bit of the command word is set. -/
  | reservedBits
  /-- The program ends before the opcode's operand words. -/
  | missingOperand
  /-- A reserved bit of `CFG` is set. -/
  | reservedCfg
  deriving DecidableEq, Repr, Inhabited

/-- Every row, in the table's order. -/
def Op.all : List Op :=
  [.irqSetEnabled, .irqSetPriority, .extiConfigure, .extiHandle, .gpioConfigure, .gpioReadPin, .gpioWritePin,
    .gpioTogglePin, .spiInit, .spiTransmit, .spiReceive, .spiStartTx, .spiStartRx, .spiIrqHandle, .spiCloseTx,
    .spiCloseRx]

/-- `OP`, which is also the row's match (R73). -/
def Op.pattern : Op → Word
  | .irqSetEnabled => 0x01
  | .irqSetPriority => 0x02
  | .extiConfigure => 0x10
  | .extiHandle => 0x11
  | .gpioConfigure => 0x20
  | .gpioReadPin => 0x21
  | .gpioWritePin => 0x22
  | .gpioTogglePin => 0x23
  | .spiInit => 0x30
  | .spiTransmit => 0x31
  | .spiReceive => 0x32
  | .spiStartTx => 0x33
  | .spiStartRx => 0x34
  | .spiIrqHandle => 0x35
  | .spiCloseTx => 0x36
  | .spiCloseRx => 0x37

/-- The row's mask: the opcode and the reserved bits (R72, R73). -/
def Op.mask : Op → Word
  | .irqSetEnabled => 0xFFFE00FF
  | .irqSetPriority => 0xFF0000FF
  | .extiConfigure => 0x000000FF
  | .extiHandle => 0xFFFF00FF
  | .gpioConfigure => 0x000000FF
  | .gpioReadPin => 0xFF0000FF
  | .gpioWritePin => 0xFE0000FF
  | .gpioTogglePin => 0xFF0000FF
  | .spiInit => 0xFFFC00FF
  | .spiTransmit => 0xFFFF00FF
  | .spiReceive => 0xFFFF00FF
  | .spiStartTx => 0xFFFF00FF
  | .spiStartRx => 0xFFFF00FF
  | .spiIrqHandle => 0xFFFF00FF
  | .spiCloseTx => 0xFFFF00FF
  | .spiCloseRx => 0xFFFF00FF

/-- `NOPS(OP)`: how many operand words follow (R81). -/
def Op.operands : Op → Nat
  | .gpioConfigure | .spiInit => 1
  | .spiTransmit | .spiReceive | .spiStartTx | .spiStartRx => 2
  | .irqSetEnabled | .irqSetPriority | .extiConfigure | .extiHandle | .gpioReadPin | .gpioWritePin | .gpioTogglePin
  | .spiIrqHandle | .spiCloseTx | .spiCloseRx => 0

/-! ## Byte fields (R72) -/

/-- Field `A`, bits `[15:8]`. -/
def fieldA (w : Word) : BitVec 8 := w.extractLsb' 8 8
/-- Field `B`, bits `[23:16]`. -/
def fieldB (w : Word) : BitVec 8 := w.extractLsb' 16 8
/-- Field `C`, bits `[31:24]`. -/
def fieldC (w : Word) : BitVec 8 := w.extractLsb' 24 8

/-- `W = OP | (A << 8) | (B << 16) | (C << 24)` (R72). -/
def commandWord (op : Op) (a b c : BitVec 8) : Word :=
  op.pattern ||| (a.setWidth 32 <<< 8) ||| (b.setWidth 32 <<< 16) ||| (c.setWidth 32 <<< 24)

/-- A one-bit field as its byte. -/
def bitByte (b : Bool) : BitVec 8 := if b then 1 else 0

/-! ## Decoding (R78) -/

/-- The row whose mask and match a word meets (R78 step 1). -/
def findOp (w : Word) : Option Op := Op.all.find? (fun op => w &&& op.mask == op.pattern)

/-- The row whose `OP` the low byte of a word is: the opcode alone fixes a command's length (R72, R81). -/
def opOfByte (w : Word) : Option Op := Op.all.find? (fun op => w &&& 0xFF == op.pattern)

/-- A command of a row without operand words, from its command word. -/
def Op.build0 (op : Op) (w : Word) : Option Instr :=
  match op with
  | .irqSetEnabled => some (.irqSetEnabled (fieldA w) ((fieldB w).getLsbD 0))
  | .irqSetPriority => some (.irqSetPriority (fieldA w) (fieldB w))
  | .extiConfigure => some (.extiConfigure (fieldA w) (fieldB w) (fieldC w))
  | .extiHandle => some (.extiHandle (fieldA w))
  | .gpioReadPin => some (.gpioReadPin (fieldA w) (fieldB w))
  | .gpioWritePin => some (.gpioWritePin (fieldA w) (fieldB w) ((fieldC w).getLsbD 0))
  | .gpioTogglePin => some (.gpioTogglePin (fieldA w) (fieldB w))
  | .spiIrqHandle => some (.spiIrqHandle (fieldA w))
  | .spiCloseTx => some (.spiCloseTx (fieldA w))
  | .spiCloseRx => some (.spiCloseRx (fieldA w))
  | .gpioConfigure | .spiInit | .spiTransmit | .spiReceive | .spiStartTx | .spiStartRx => none

/-- A command of a row with one operand word (R74). -/
def Op.build1 (op : Op) (w x : Word) : Option Instr :=
  match op with
  | .gpioConfigure => some (.gpioConfigure (fieldA w) (fieldB w) (fieldC w) x)
  | .spiInit => some (.spiInit (fieldA w) ((fieldB w).getLsbD 0) ((fieldB w).getLsbD 1) x)
  | .irqSetEnabled | .irqSetPriority | .extiConfigure | .extiHandle | .gpioReadPin | .gpioWritePin | .gpioTogglePin
  | .spiTransmit | .spiReceive | .spiStartTx | .spiStartRx | .spiIrqHandle | .spiCloseTx | .spiCloseRx => none

/-- A command of a row with two operand words, `BUF` then `LEN` (R74). -/
def Op.build2 (op : Op) (w x y : Word) : Option Instr :=
  match op with
  | .spiTransmit => some (.spiTransmit (fieldA w) x y)
  | .spiReceive => some (.spiReceive (fieldA w) x y)
  | .spiStartTx => some (.spiStartTx (fieldA w) x y)
  | .spiStartRx => some (.spiStartRx (fieldA w) x y)
  | .irqSetEnabled | .irqSetPriority | .extiConfigure | .extiHandle | .gpioConfigure | .gpioReadPin | .gpioWritePin
  | .gpioTogglePin | .spiInit | .spiIrqHandle | .spiCloseTx | .spiCloseRx => none

/-- R78 step 4: a `CFG` with a reserved bit set is refused. -/
def checkCfg (i : Instr) : Except DecodeRefusal Instr :=
  if i.wellFormed then .ok i else .error .reservedCfg

/-- R78 step 3: take the row's operand words. -/
def decodeOperands (op : Op) (w : Word) (ws : List Word) : Except DecodeRefusal (Instr × List Word) :=
  match op.build0 w, ws with
  | some i, ws => .ok (i, ws)
  | none, [] => .error .missingOperand
  | none, x :: ws =>
    match op.build1 w x, ws with
    | some i, ws => (checkCfg i).map (fun i => (i, ws))
    | none, [] => .error .missingOperand
    | none, y :: ws =>
      match op.build2 w x y with
      | some i => .ok (i, ws)
      | none => .error .missingOperand

/-- Read the command at the head of a list of words, and the words after it (R78). -/
def decode : List Word → Except DecodeRefusal (Instr × List Word)
  | [] => .error .endOfProgram
  | w :: ws =>
    match findOp w with
    | none => .error (if (opOfByte w).isSome then .reservedBits else .unassignedOpcode)
    | some op => decodeOperands op w ws

/-- How many words the command starting with `w` takes (R81). -/
def commandLength (w : Word) : Nat :=
  match opOfByte w with
  | some op => 1 + op.operands
  | none => 1

/-- The words from the `n`-th command of a program on: `pc` is a command index (10_state.md R41). -/
def skipCommands : Nat → List Word → List Word
  | 0, ws => ws
  | _ + 1, [] => []
  | n + 1, w :: ws => skipCommands n (ws.drop (commandLength w - 1))

/-! ## Encoding (R72 to R74) -/

/-- The words of a command. -/
def encode : Instr → List Word
  | .irqSetEnabled i e => [commandWord .irqSetEnabled i (bitByte e) 0]
  | .irqSetPriority i p => [commandWord .irqSetPriority i p 0]
  | .extiConfigure n p t => [commandWord .extiConfigure n p t]
  | .extiHandle n => [commandWord .extiHandle n 0 0]
  | .gpioConfigure n p c cfg => [commandWord .gpioConfigure n p c, cfg]
  | .gpioReadPin n p => [commandWord .gpioReadPin n p 0]
  | .gpioWritePin n p v => [commandWord .gpioWritePin n p (bitByte v)]
  | .gpioTogglePin n p => [commandWord .gpioTogglePin n p 0]
  | .spiInit s dff errie cr1 => [commandWord .spiInit s (bitByte dff ||| (bitByte errie <<< 1)) 0, cr1]
  | .spiTransmit s b l => [commandWord .spiTransmit s 0 0, b, l]
  | .spiReceive s b l => [commandWord .spiReceive s 0 0, b, l]
  | .spiStartTx s b l => [commandWord .spiStartTx s 0 0, b, l]
  | .spiStartRx s b l => [commandWord .spiStartRx s 0 0, b, l]
  | .spiIrqHandle s => [commandWord .spiIrqHandle s 0 0]
  | .spiCloseTx s => [commandWord .spiCloseTx s 0 0]
  | .spiCloseRx s => [commandWord .spiCloseRx s 0 0]

/-! ## The opcode table's numbering -/

/-- The low `nbits` bits of `w` as 32-bit words, first word lowest, up to the longest command's three. -/
def tableWords (nbits w : Nat) : List Word :=
  let v := w % 2 ^ nbits
  [BitVec.ofNat 32 v, BitVec.ofNat 32 (v / 2 ^ 32), BitVec.ofNat 32 (v / 2 ^ 64)]

/-- The words of `tableWords` that the command they start takes. -/
def tableCommand (nbits w : Nat) : List Word :=
  (tableWords nbits w).take (commandLength (BitVec.ofNat 32 (w % 2 ^ nbits)))

/-- The command the decoder reads from bits numbered as spec/opcode_table.json numbers them. -/
def decodeTableWord (nbits w : Nat) : Option Instr :=
  match decode (tableWords nbits w) with
  | .ok (i, _) => some i
  | .error _ => none

end Sys2Proof
end

