-- ==== Sys2Proof/Config.lean ====
section
/-! DEFINITION. The parameters of a run (00_scope.md R6, R160), the environment's moves (60_exceptions.md R148),
and the free values, which have no body. A parameter the spec marks OPEN is a field of `Config`, and a machine
state carries its `Config` as constant data, so a statement about every state speaks of every choice (log 1). -/

namespace Sys2Proof

/-! ## Numbers the source fixes (R6) -/

/-- `PRIO_BITS`: implemented bits of a priority byte. -/
def prioBits : Nat := 4

/-- The most controller sources there can be (`1 <= N_IRQ <= 240`). -/
def maxIrq : Nat := 240

/-! ## Names -/

/-- The two directions of an SPI instance's transfers (R39). -/
inductive Direction where
  | tx
  | rx
  deriving DecidableEq, Repr, Inhabited

/-- The application callback's events (R43, R121). -/
inductive Event where
  | txCmplt
  | rxCmplt
  | ovrErr
  | crcErr
  deriving DecidableEq, Repr, Inhabited

/-- The four sub-handlers of an SPI dispatch: TXH and RXH (`tick`), OVRH, CRCH (R113). -/
inductive Handler where
  | tick (d : Direction)
  | ovr
  | crc
  deriving DecidableEq, Repr, Inhabited

/-- A permutation of the four sub-handlers, by number: the draw of one dispatch (R113).
`orderHandlers` (Operands.lean) lists it. -/
abbrev Order := Fin 24

/-- `EXTICR_MODE`: how the Router writes the selector register (R94). -/
inductive SelectorMode where
  | merge
  | whole
  deriving DecidableEq, Repr, Inhabited

/-! ## Parameters -/

/-- `POS(field)`: the bit position of each SPI field (R71). -/
structure FieldPos where
  dff : Fin 32
  txeie : Fin 32
  rxneie : Fin 32
  errie : Fin 32
  txe : Fin 32
  rxne : Fin 32
  bsy : Fin 32
  ovr : Fin 32
  crcerr : Fin 32
  modf : Fin 32
  deriving DecidableEq, Repr, Inhabited

/-- Base and offsets of the EXTI block (20_memory.md R47). -/
structure ExtiAddr where
  base : Word
  imrOff : Word
  rtsrOff : Word
  ftsrOff : Word
  prOff : Word
  deriving DecidableEq, Repr, Inhabited

/-- Base and offsets of one GPIO port (20_memory.md R47); `afrOff` is that of `AFR[0]`. -/
structure PortAddr where
  base : Word
  moderOff : Word
  otyperOff : Word
  ospeedrOff : Word
  pupdrOff : Word
  idrOff : Word
  odrOff : Word
  afrOff : Word
  deriving DecidableEq, Repr, Inhabited

/-- Base and offsets of one SPI instance (20_memory.md R47). -/
structure SpiAddr where
  base : Word
  cr1Off : Word
  cr2Off : Word
  srOff : Word
  drOff : Word
  deriving DecidableEq, Repr, Inhabited

/-- `ADDR`: the base of each register block and the offset of each register in it (20_memory.md R47, R57). Each port
and each instance has offsets of its own, because R47 makes every one a parameter. -/
structure AddrMap where
  iserBase : Word
  icerBase : Word
  iprBase : Word
  exticrBase : Word
  exti : ExtiAddr
  gpio : Vector PortAddr 9
  /-- One entry an instance. -/
  spi : List SpiAddr
  deriving DecidableEq, Repr, Inhabited

/-- `MODE_CODE`: the 2-bit `MODER` code of each plain mode (30_encoding.md R70). -/
structure ModeCodes where
  input : BitVec 2
  output : BitVec 2
  alternate : BitVec 2
  analog : BitVec 2
  deriving DecidableEq, Repr, Inhabited

/-- `RESET_VAL` of one port's port-specific registers (10_state.md R28, R29). -/
structure PortReset where
  moder : Word
  ospeedr : Word
  pupdr : Word
  deriving DecidableEq, Repr, Inhabited

/-- One declared range of RAM: `size` bytes from `base` (R53, R160). -/
structure RamRange where
  base : Nat
  size : Nat
  deriving DecidableEq, Repr, Inhabited

/-- The parameters of 00_scope.md R6. `N_SPI` is the number of SPI records of the state (log 15). -/
structure Config where
  /-- `N_IRQ`, at most 240 by its type. -/
  nIrq : Fin 241
  pos : FieldPos
  addr : AddrMap
  /-- `EXTI_IRQ(l)`. -/
  extiIrq : Vector Nat 16
  /-- `SPI_IRQ(s)`, one entry an instance. -/
  spiIrq : List Nat
  exticrMode : SelectorMode
  prLatchMasked : Bool
  startAtomic : Bool
  crcClear : Bool
  /-- `ISR_BODY(i)` for sources that are no SPI source; a source without an entry has the empty body (R146). -/
  isrBodies : List (Nat × List Word)
  /-- `CALLBACK(s, ev)`; a pair without an entry has the empty list (R121). -/
  callbacks : List ((Nat × Event) × List Word)
  modeCode : ModeCodes
  resetVal : Vector PortReset 9
  ram : List RamRange
  deriving DecidableEq, Repr, Inhabited

/-! ## The environment's moves -/

/-- One step of agent SPIDEV (43_spi_engine.md R130, R131, R133). -/
inductive SpiEvent where
  /-- The shift stage takes the queued frame (R130). -/
  | takeFrame
  /-- Frame `x` arrives; on an overrun `replace` is the draw: the new frame replaces the old one (R131). -/
  | arrive (x : Half) (replace : Bool)
  /-- `BSY` is set or cleared (R133). -/
  | busy (b : Bool)
  /-- `MODF` is set (R133). -/
  | modeFault
  /-- `CRCERR` is set (R133). -/
  | crcError
  /-- The opaque bits of `SR` become those of `v` (R36: read "as the environment leaves them"; DEDUCED, log 18). -/
  | opaqueBits (v : Word)
  deriving DecidableEq, Repr, Inhabited

/-- Which agent takes the next step, and its choice (60_exceptions.md R148). A return is not chosen: it comes
before any move (R145). -/
inductive Move where
  /-- One micro-step of the top context; `o` is the permutation that a dispatch starting in it draws (R113). -/
  | run (o : Order)
  /-- NVIC latches source `i` (R142). -/
  | pend (i : Nat)
  /-- NVIC takes the eligible source that R143 chooses (R144). -/
  | enter
  /-- PINS changes the level of pin `n` of port `p` (R99). -/
  | pinChange (p : Fin 9) (n : Fin 16)
  /-- The environment sets the request level of an other source (R21, log 19). -/
  | request (i : Nat) (level : Bool)
  /-- SPIDEV of instance `k` (R130 to R133). -/
  | spi (k : Nat) (e : SpiEvent)
  deriving DecidableEq, Repr, Inhabited

/-- The `n`-th move after the schedule of a state has run out: a FREE VALUE, nothing constrains it (log 2). -/
opaque Config.freeMove : Nat → Move

/-! ## Launch inputs -/

/-- What fixes a run besides its free values (70_reset_and_hazards.md R160). -/
structure Launch where
  cfg : Config
  /-- The foreground program, command words with their operand words. -/
  program : List Word
  /-- The draw for `EXTI.PR` (R25). -/
  extiPr : Word
  /-- The pin levels at launch (R32). -/
  pins : Vector Half 9
  /-- `MEM` at launch (R53): (address, byte) pairs, an unlisted address holding 0 (log 8). -/
  mem : List (Nat × Byte)
  /-- The moves already fixed (log 2). -/
  sched : List Move
  deriving DecidableEq, Repr, Inhabited

/-! ## The suggested profile (93_implementation_defined.md G3 to G9; 95_test_vectors.md, common assumptions) -/

/-- Suggested `POS` (G9). -/
def FieldPos.suggested : FieldPos :=
  { dff := 11, txeie := 7, rxneie := 6, errie := 5, txe := 1, rxne := 0, bsy := 7, ovr := 6, crcerr := 4, modf := 5 }

/-- A port at `base` with the suggested offsets (G8). -/
def PortAddr.suggested (base : Word) : PortAddr :=
  { base := base, moderOff := 0x00, otyperOff := 0x04, ospeedrOff := 0x08, pupdrOff := 0x0C, idrOff := 0x10,
    odrOff := 0x14, afrOff := 0x20 }

/-- Suggested `ADDR` (G3, G6, G7, G8, G9), for one SPI instance (SPI1). -/
def AddrMap.suggested : AddrMap :=
  { iserBase := 0xE000E100, icerBase := 0xE000E180, iprBase := 0xE000E400, exticrBase := 0x40013808,
    exti := { base := 0x40013C00, imrOff := 0x00, rtsrOff := 0x08, ftsrOff := 0x0C, prOff := 0x14 },
    gpio := #v[PortAddr.suggested 0x40020000, PortAddr.suggested 0x40020400, PortAddr.suggested 0x40020800,
      PortAddr.suggested 0x40020C00, PortAddr.suggested 0x40021000, PortAddr.suggested 0x40021400,
      PortAddr.suggested 0x40021800, PortAddr.suggested 0x40021C00, PortAddr.suggested 0x40022000],
    spi := [{ base := 0x40013000, cr1Off := 0x00, cr2Off := 0x04, srOff := 0x08, drOff := 0x0C }] }

/-- Suggested `RESET_VAL` (G8): ports A and B hold the debug pins' values, the others 0. PRESUMED (log 6). -/
def PortReset.suggested : Vector PortReset 9 :=
  #v[⟨0xA8000000, 0x0C000000, 0x64000000⟩, ⟨0x00000280, 0x000000C0, 0x00000100⟩, ⟨0, 0, 0⟩, ⟨0, 0, 0⟩, ⟨0, 0, 0⟩,
    ⟨0, 0, 0⟩, ⟨0, 0, 0⟩, ⟨0, 0, 0⟩, ⟨0, 0, 0⟩]

/-- The parameters of the spec's own test vectors (95_test_vectors.md, common assumptions), with the suggested
profile of 93_implementation_defined.md where they say nothing. DESIGN CHOICE (log 1). -/
def Config.suggested : Config :=
  { nIrq := 240, pos := FieldPos.suggested, addr := AddrMap.suggested,
    extiIrq := #v[6, 7, 8, 9, 10, 23, 23, 23, 23, 23, 40, 40, 40, 40, 40, 40],
    spiIrq := [35], exticrMode := .merge, prLatchMasked := false, startAtomic := false, crcClear := false,
    isrBodies := [], callbacks := [], modeCode := ⟨0b00, 0b01, 0b10, 0b11⟩, resetVal := PortReset.suggested,
    ram := [⟨0x20000000, 0x20000⟩] }

/-- The launch behind `State.reset`: the suggested parameters, no program, and one value of each draw
(DESIGN CHOICE: logs 5, 7, 8). -/
def Launch.suggested : Launch :=
  { cfg := Config.suggested, program := [], extiPr := 0, pins := Vector.replicate 9 0, mem := [], sched := [] }

end Sys2Proof
end

