-- ==== Sys2Proof/Machine/State.lean ====
section
/-! DEFINITION. The machine state (10_state.md R14), plain data, and the state after reset
(70_reset_and_hazards.md R158). -/

namespace Sys2Proof.Machine

/-! ## Why the machine stops

The spec's own faults (60_exceptions.md R137) and refused words (30_encoding.md R78) leave one context stuck and the
rest of the machine running (R139), so they are NEXT states with a record in `faults` or `refused`, not these. -/

/-- Why a step stops the whole machine. -/
inductive Fault where
  /-- Raised by a meaning when the top context's micro-step position belongs to another command. No run reaches such
  a state (log 13). Safe: the model stops where the spec describes no state. -/
  | foreignMicroState
  deriving DecidableEq, Repr

/-- Why a step or a launch has no meaning. -/
inductive Refusal where
  /-- The instruction has no meaning yet; no arm of exec answers with it. Safe. -/
  | notModelled (mnemonic : String)
  /-- Raised by `launch`: the parameters or launch inputs are ill-formed (20_memory.md R56, R57). Safe. -/
  | illFormedLaunch
  deriving DecidableEq, Repr

/-! ## Registers -/

/-- EXTI registers (R22 to R25). -/
inductive ExtiReg where
  | imr | rtsr | ftsr | pr
  deriving DecidableEq, Repr, Inhabited

/-- A GPIO port's registers (R28 to R33). -/
inductive PortReg where
  | moder | ospeedr | pupdr | otyper | idr | odr | afr0 | afr1
  deriving DecidableEq, Repr, Inhabited

/-- An SPI instance's registers (R34 to R37). -/
inductive SpiReg where
  | cr1 | cr2 | sr | dr
  deriving DecidableEq, Repr, Inhabited

/-- The memory-mapped registers of the block (20_memory.md R57). -/
inductive Reg where
  | iser (b : Nat)
  | icer (b : Nat)
  | ipr (r : Nat)
  | exti (e : ExtiReg)
  | exticr (k : Nat)
  | gpio (p : Nat) (r : PortReg)
  | spi (k : Nat) (r : SpiReg)
  deriving DecidableEq, Repr, Inhabited

/-! ## Device state -/

/-- Controller state: EN, PEND, ACT (a bit a source, R15, R20) and IPR (R18). -/
structure Nvic where
  en : BitVec 240
  pend : BitVec 240
  act : BitVec 240
  ipr : Vector Word 60
  deriving DecidableEq, Repr, Inhabited

/-- EXTI state (R22 to R26). -/
structure Exti where
  imr : Word
  rtsr : Word
  ftsr : Word
  pr : Word
  deriving DecidableEq, Repr, Inhabited

/-- One GPIO port (R28 to R33). `pin` holds the input levels that `IDR` reads. -/
structure Port where
  moder : Word
  ospeedr : Word
  pupdr : Word
  otyper : Word
  odr : Word
  afr0 : Word
  afr1 : Word
  pin : Half
  deriving DecidableEq, Repr, Inhabited

/-- READY and BUSY (R39). -/
inductive TransferState where
  | ready
  | busy
  deriving DecidableEq, Repr, Inhabited

/-- A transfer context `TC[s][d]` (R39). -/
structure TransferCtx where
  buf : Word
  len : Word
  st : TransferState
  deriving DecidableEq, Repr, Inhabited

/-- One SPI instance: registers (R34 to R36), hidden state (R37, R38), transfer contexts (R39), `BLK` (R40). -/
structure Spi where
  cr1 : Word
  cr2 : Word
  sr : Word
  rxbuf : Half
  txq : Option Half
  ovrseq : Bool
  txout : List Half
  tx : TransferCtx
  rx : TransferCtx
  blk : Bool
  deriving DecidableEq, Repr, Inhabited

/-- Buffer memory: (address, byte) pairs in canonical form (R53); an unlisted address reads as 0 (log 8). -/
abbrev Memory := List Host.Cell

/-! ## Micro-step positions

`mstate` of R41: the access a command takes next, with the local values it carries. Labels in `<>` are the spec's. -/

/-- Frame sizes, one or two bytes (R34). -/
inductive FrameSize where
  | one
  | two
  deriving DecidableEq, Repr, Inhabited

/-- The Router before its next access (R93 to R95). The first access, of `<a1>`, is `setRead`. -/
inductive RouterPos where
  | setRead
  | setWrite (v : Word)
  | otherRead
  | otherWrite (v : Word)
  | select
  | selectWrite (v : Word)
  | maskRead
  | maskWrite (v : Word)
  deriving DecidableEq, Repr, Inhabited

/-- GPIO_CONFIGURE outside the Router (R102): `<a2>`, `<s1>` to `<s8>`. -/
inductive GpioPos where
  | moderWrite (v : Word)
  | speedRead
  | speedWrite (v : Word)
  | pullRead
  | pullWrite (v : Word)
  | typeRead
  | typeWrite (v : Word)
  | afRead
  | afWrite (v : Word)
  deriving DecidableEq, Repr, Inhabited

/-- SPI_INIT after `<a0>` (R108). -/
inductive InitPos where
  | cr1Write
  | cr2Write
  deriving DecidableEq, Repr, Inhabited

/-- A blocking transfer after `<a0>` (R109, R110), with its local `b`, `L`, `f` and `x`. `first` and `second` are
`<m>` then `<d>` when transmitting, `<d>` then `<m>` when receiving. -/
inductive BlockPos where
  | poll (b len : Word)
  | frame (b len : Word)
  | first (b len : Word) (f : FrameSize)
  | second (b len : Word) (f : FrameSize) (x : Word)
  | idle
  deriving DecidableEq, Repr, Inhabited

/-- `spi_start_*` after `<t1>` read READY (R111): `<t2>` to `<t6>`. -/
inductive StartPos where
  | bufWrite
  | lenWrite
  | stWrite
  | cr2Read
  | cr2Write (v : Word)
  deriving DecidableEq, Repr, Inhabited

/-- `CLOSE(s, d)`: `<c1>` to `<c5>` (R107). -/
inductive ClosePos where
  | cr2Read
  | cr2Write (v : Word)
  | bufWrite
  | lenWrite
  | stWrite
  deriving DecidableEq, Repr, Inhabited

/-- A tick: `<x0>`, `<f1>`, `<f2>`, `<x3>` to `<x7>`, then `CLOSE` (R114, R116). `first` and `second` are `<x4>`
and `<x5>` (`<y4>` and `<y5>`). -/
inductive TickPos where
  | stRead
  | cr1Read
  | lenRead (f : FrameSize)
  | bufRead (f : FrameSize) (len : Word)
  | first (f : FrameSize) (len b : Word)
  | second (f : FrameSize) (len b x : Word)
  | lenWrite (f : FrameSize) (len b : Word)
  | bufWrite (f : FrameSize) (len b : Word)
  | closing (p : ClosePos)
  deriving DecidableEq, Repr, Inhabited

/-- The overrun sub-handler: `<o1>` to `<o3>` (R117). -/
inductive OvrPos where
  | stRead
  | drRead
  | srRead
  deriving DecidableEq, Repr, Inhabited

/-- `mstate`: the position of a context inside its current command (R41). `rest` lists the sub-handlers of an SPI
dispatch that have not begun. -/
inductive MState where
  /-- Before the first micro-step. -/
  | fresh
  /-- IRQ_SET_PRIORITY before `<a2>`. -/
  | priorityWrite (v : Word)
  /-- In the Router, of EXTI_CONFIGURE or GPIO_CONFIGURE. -/
  | router (p : RouterPos)
  /-- EXTI_HANDLE before `<a2>`. -/
  | pendingClear
  /-- GPIO_CONFIGURE. -/
  | gpio (p : GpioPos)
  /-- GPIO_WRITE_PIN and GPIO_TOGGLE_PIN before `<a2>`. -/
  | odrWrite (v : Word)
  /-- SPI_INIT. -/
  | init (p : InitPos)
  /-- SPI_TRANSMIT and SPI_RECEIVE. -/
  | blocking (p : BlockPos)
  /-- SPI_START_TX and SPI_START_RX. -/
  | start (p : StartPos)
  /-- SPI_IRQ_HANDLE before `<h1>` of the head of `rest` (nothing left to do when `rest` is empty). -/
  | dispatch (rest : List Handler)
  /-- SPI_IRQ_HANDLE before `<h2>` of `h`, which read `sr` at `<h1>`. -/
  | select (h : Handler) (rest : List Handler) (sr : Word)
  /-- TX_TICK or RX_TICK. -/
  | tick (d : Direction) (rest : List Handler) (p : TickPos)
  /-- OVR_HANDLE. -/
  | drain (rest : List Handler) (p : OvrPos)
  /-- CRC_HANDLE before `<r1>`. -/
  | crcClear (rest : List Handler)
  /-- SPI_CLOSE_TX and SPI_CLOSE_RX after `<k0>`. -/
  | close (p : ClosePos)
  deriving DecidableEq, Repr, Inhabited

/-! ## Execution contexts -/

/-- The kind of a context (R41). -/
inductive Kind where
  | fg
  | isr (source : Nat)
  deriving DecidableEq, Repr, Inhabited

/-- The fault codes of 60_exceptions.md R137. -/
inductive FaultCode where
  | badIrq | badPrio | badPin | badPort | badTrigger | badMode | badInstance
  | lenUnderflow | tickReady | mixedMode | unsafeClose | initBusy
  deriving DecidableEq, Repr, Inhabited

/-- Why a context is stuck (60_exceptions.md R139). -/
inductive Stuck where
  /-- It raised a fault (R137). -/
  | faulted (c : FaultCode)
  /-- Its command word was refused (R78). -/
  | refused
  /-- Its next access is a buffer access outside RAM, which has no step (R53, log 11). -/
  | badAddress
  deriving DecidableEq, Repr, Inhabited

/-- A command list being run: `prog`, `pc` and `mstate` of R41. -/
structure Frame where
  prog : List Word
  pc : Nat
  mst : MState
  deriving DecidableEq, Repr, Inhabited

/-- What a context runs: its current command list, the lists whose NOTIFY it runs inside (R121, log 10), innermost
first, and whether it is stuck. -/
structure Thread where
  cur : Frame
  outer : List Frame
  stuck : Option Stuck
  deriving DecidableEq, Repr, Inhabited

/-- An interrupt context `ISR(source)`. -/
structure Isr where
  source : Nat
  thread : Thread
  deriving DecidableEq, Repr, Inhabited

/-- `STACK` (R41): FG at the bottom and the interrupt contexts, innermost first. -/
structure Stack where
  fg : Thread
  isrs : List Isr
  deriving DecidableEq, Repr, Inhabited

/-! ## Records -/

/-- A member of `FAULT` (R44). -/
structure FaultRecord where
  code : FaultCode
  kind : Kind
  pc : Nat
  deriving DecidableEq, Repr, Inhabited

/-- A value an operation returns (R43): `start_transfer` a state, `read_pin` a level. -/
inductive ResultValue where
  | state (st : TransferState)
  | level (b : Bool)
  deriving DecidableEq, Repr, Inhabited

/-- A member of `RES` (R43). -/
structure ResultRecord where
  kind : Kind
  pc : Nat
  value : ResultValue
  deriving DecidableEq, Repr, Inhabited

/-! ## The state -/

/-- The machine state (R14). `cfg` holds the parameters, which nothing changes; `sched`, `moves` and `order` are the
model's own: the choices of the environment (logs 2 and 4). -/
structure State where
  cfg : Config
  nvic : Nvic
  exti : Exti
  /-- `EXTICR[0..3]` (R27). -/
  exticr : Vector Word 4
  gpio : Vector Port 9
  /-- Request levels of the other sources (R21). -/
  extReq : BitVec 240
  /-- The SPI instances; their number is `N_SPI`. -/
  spi : List Spi
  mem : Memory
  stack : Stack
  /-- `LOG` (R43). -/
  log : List (Nat × Event)
  /-- `RES` (R43). -/
  res : List ResultRecord
  /-- `FAULT`, without repeats (R44). -/
  faults : List FaultRecord
  /-- `REFUSED` (R44). -/
  refused : Bool
  /-- The model's own: the moves already fixed, the next one first. -/
  sched : List Move
  /-- The model's own: how many free moves have been drawn. -/
  moves : Nat
  /-- The model's own: the permutation the next dispatch draws. -/
  order : Order
  deriving DecidableEq, Repr, Inhabited

/-! ## Reset -/

/-- A context at the start of a command list. -/
def Thread.start (prog : List Word) : Thread :=
  { cur := { prog := prog, pc := 0, mst := .fresh }, outer := [], stuck := none }

/-- A cleared transfer context (R39). -/
def TransferCtx.cleared : TransferCtx := { buf := 0, len := 0, st := .ready }

/-- An SPI instance after reset (R34 to R40): `SR` has `TXE = 1` and nothing else. -/
def Spi.reset (pos : FieldPos) : Spi :=
  { cr1 := 0, cr2 := 0, sr := 1#32 <<< pos.txe.val, rxbuf := 0, txq := none, ovrseq := false, txout := [],
    tx := TransferCtx.cleared, rx := TransferCtx.cleared, blk := false }

/-- A port after reset (R28 to R33). -/
def Port.reset (v : PortReset) (pins : Half) : Port :=
  { moder := v.moder, ospeedr := v.ospeedr, pupdr := v.pupdr, otyper := 0, odr := 0, afr0 := 0, afr1 := 0,
    pin := pins }

/-- The state a run starts from (70_reset_and_hazards.md R158, R159, R160). -/
def State.initial (l : Launch) : State :=
  { cfg := l.cfg,
    nvic := { en := 0, pend := 0, act := 0, ipr := Vector.replicate 60 0 },
    exti := { imr := 0, rtsr := 0, ftsr := 0, pr := l.extiPr },
    exticr := Vector.replicate 4 0,
    gpio := Vector.ofFn (fun p => Port.reset l.cfg.resetVal[p] l.pins[p]),
    extReq := 0,
    spi := l.cfg.spiIrq.map (fun _ => Spi.reset l.cfg.pos),
    mem := l.mem,
    stack := { fg := Thread.start l.program, isrs := [] },
    log := [], res := [], faults := [], refused := false,
    sched := l.sched, moves := 0, order := 0 }

/-- The machine right after reset: R158 with the suggested parameters, no program loaded, and one value of every draw
(logs 1, 5, 6, 7, 8, 17). -/
def State.reset : State := State.initial Launch.suggested

end Sys2Proof.Machine
end

