-- ==== Sys2Proof/Machine/Operands.lean ====
section
/-! DEFINITION. Index and field arithmetic, operand codes, field updates and register addresses
(30_encoding.md R64 to R77, 20_memory.md R47). -/

namespace Sys2Proof.Machine

/-! ## Bits -/

/-- `ONEHOT(n)` (00_scope.md R8). -/
def oneHot (n : Nat) : Word := 1#32 <<< n

/-- A masked field write: `(v & ~(m << sh)) | (x << sh)`. -/
def insertField (v m x : Word) (sh : Nat) : Word := (v &&& ~~~(m <<< sh)) ||| (x <<< sh)

/-- Bit `n` of `v` set to `b`: the one-bit write of R71. -/
def putBit (v : Word) (n : Nat) (b : Bool) : Word := if b then v ||| oneHot n else v &&& ~~~(oneHot n)

/-- A Boolean as a 32-bit 0 or 1. -/
def bitWord (b : Bool) : Word := if b then 1 else 0

/-! ## Controller sources (R64, R65) -/

/-- `bank(i)`. -/
def bankOf (i : Nat) : Nat := i / 32
/-- `bit(i)`. -/
def bitOf (i : Nat) : Nat := i % 32
/-- `ipr(i)`. -/
def iprOf (i : Nat) : Nat := i / 4
/-- `shift(i)`. -/
def priorityShift (i : Nat) : Nat := 8 * (i % 4) + (8 - prioBits)
/-- `fmask(i)`. -/
def priorityMask (i : Nat) : Word := BitVec.ofNat 32 (2 ^ prioBits - 1) <<< priorityShift i

/-- The bits of the sources below `n` (10_state.md R16: bits of absent sources read zero and ignore writes). -/
def presentSources (n : Nat) : BitVec 240 := BitVec.allOnes 240 >>> (240 - n)

/-- A bank's 32 bits at their places among the sources. -/
def bankBits (b : Nat) (v : Word) : BitVec 240 := v.setWidth 240 <<< (32 * b)

/-- Byte `k` of priority register `r` when it is the byte of a present source: its implemented bits (R18). -/
def iprByteMask (n r k : Nat) : Word := if 4 * r + k < n then priorityMask k else 0

/-- The writable bits of priority register `r` among `n` sources (R18). -/
def iprMask (n r : Nat) : Word :=
  iprByteMask n r 0 ||| iprByteMask n r 1 ||| iprByteMask n r 2 ||| iprByteMask n r 3

/-! ## Lines and pins (R66, R68, R69) -/

/-- `sreg(n)`. -/
def selectorReg (n : Nat) : Nat := n / 4
/-- `sshift(n)`. -/
def selectorShift (n : Nat) : Nat := 4 * (n % 4)
/-- The alternate-function register of pin `n`, `AFR[n/8]`. -/
def afrReg (n : Nat) : PortReg := if n / 8 = 0 then .afr0 else .afr1
/-- The corrected alternate-function offset `4*(n % 8)` (42_gpio_port.md R106). -/
def afrShift (n : Nat) : Nat := 4 * (n % 8)

/-! ## Operand codes (R67, R75, R76, R77) -/

/-- A trigger policy (R75). -/
inductive Trigger where
  | falling
  | rising
  | both
  deriving DecidableEq, Repr, Inhabited

/-- The trigger codes 0 to 2. -/
def triggerOfCode (c : BitVec 8) : Option Trigger :=
  if c = 0 then some .falling else if c = 1 then some .rising else if c = 2 then some .both else none

/-- A GPIO mode (R76). -/
inductive PinMode where
  | input
  | output
  | alternate
  | analog
  | interrupt (t : Trigger)
  deriving DecidableEq, Repr, Inhabited

/-- The mode codes 0 to 6. -/
def pinModeOfCode (c : BitVec 8) : Option PinMode :=
  if c = 0 then some .input
  else if c = 1 then some .output
  else if c = 2 then some .alternate
  else if c = 3 then some .analog
  else if c = 4 then some (.interrupt .falling)
  else if c = 5 then some (.interrupt .rising)
  else if c = 6 then some (.interrupt .both)
  else none

/-- `MODE_CODE(c)` for a plain mode (R70), and nothing for an interrupt mode, which has no `MODER` code. -/
def moderCode (m : ModeCodes) : PinMode → Option (BitVec 2)
  | .input => some m.input
  | .output => some m.output
  | .alternate => some m.alternate
  | .analog => some m.analog
  | .interrupt _ => none

/-- `CFG.SPEED`, `CFG[1:0]`. -/
def cfgSpeed (cfg : Word) : Word := cfg &&& 0x3
/-- `CFG.PULL`, `CFG[3:2]`. -/
def cfgPull (cfg : Word) : Word := (cfg >>> 2) &&& 0x3
/-- `CFG.OTYPE`, `CFG[4]`. -/
def cfgType (cfg : Word) : Word := (cfg >>> 4) &&& 0x1
/-- `CFG.AF`, `CFG[11:8]`. -/
def cfgAf (cfg : Word) : Word := (cfg >>> 8) &&& 0xF

/-! ## Frames (10_state.md R34, 20_memory.md R54) -/

/-- The bytes of a frame. -/
def FrameSize.bytes : FrameSize → Nat
  | .one => 1
  | .two => 2

/-- The low `8*f` bits of a word. -/
def FrameSize.low : FrameSize → Word → Word
  | .one, v => v &&& 0xFF
  | .two, v => v &&& 0xFFFF

/-- The frame size a `CR1` value configures (R34). -/
def frameSize (pos : FieldPos) (cr1 : Word) : FrameSize := if cr1.getLsbD pos.dff then .two else .one

/-- `IE(d)`: the position of a direction's interrupt enable in `CR2` (43_spi_engine.md R107). -/
def enablePos (pos : FieldPos) : Direction → Nat
  | .tx => pos.txeie
  | .rx => pos.rxneie

/-- The completion event of a direction (R114, R116). -/
def completionEvent : Direction → Event
  | .tx => .txCmplt
  | .rx => .rxCmplt

/-! ## The permutations of the sub-handlers (43_spi_engine.md R113) -/

/-- All permutations, the identity first. -/
def handlerOrders : List (List Handler) :=
  let t := Handler.tick .tx
  let r := Handler.tick .rx
  let o := Handler.ovr
  let c := Handler.crc
  [[t, r, o, c], [t, r, c, o], [t, o, r, c], [t, o, c, r], [t, c, r, o], [t, c, o, r],
    [r, t, o, c], [r, t, c, o], [r, o, t, c], [r, o, c, t], [r, c, t, o], [r, c, o, t],
    [o, t, r, c], [o, t, c, r], [o, r, t, c], [o, r, c, t], [o, c, t, r], [o, c, r, t],
    [c, t, r, o], [c, t, o, r], [c, r, t, o], [c, r, o, t], [c, o, t, r], [c, o, r, t]]

/-- The permutation a draw stands for. -/
def orderHandlers (o : Order) : List Handler := handlerOrders.getD o.val []

/-! ## Register addresses (20_memory.md R47) -/

/-- The offset of an EXTI register from its block's base. -/
def extiOffset (a : ExtiAddr) : ExtiReg → Word
  | .imr => a.imrOff
  | .rtsr => a.rtsrOff
  | .ftsr => a.ftsrOff
  | .pr => a.prOff

/-- The offset of a port register from its port's base. -/
def portOffset (a : PortAddr) : PortReg → Word
  | .moder => a.moderOff
  | .ospeedr => a.ospeedrOff
  | .pupdr => a.pupdrOff
  | .otyper => a.otyperOff
  | .idr => a.idrOff
  | .odr => a.odrOff
  | .afr0 => a.afrOff
  | .afr1 => a.afrOff + 4

/-- The offset of an SPI register from its instance's base. -/
def spiOffset (a : SpiAddr) : SpiReg → Word
  | .cr1 => a.cr1Off
  | .cr2 => a.cr2Off
  | .sr => a.srOff
  | .dr => a.drOff

/-- The bases of all register blocks (R47). -/
def addrBases (a : AddrMap) : List Word :=
  [a.iserBase, a.icerBase, a.iprBase, a.exticrBase, a.exti.base] ++ a.gpio.toList.map PortAddr.base
    ++ a.spi.map SpiAddr.base

/-- `ADDR(REG) = BASE(block) + OFFSET(REG)`. -/
def regAddr (a : AddrMap) : Reg → Word
  | .iser b => a.iserBase + BitVec.ofNat 32 (4 * b)
  | .icer b => a.icerBase + BitVec.ofNat 32 (4 * b)
  | .ipr r => a.iprBase + BitVec.ofNat 32 (4 * r)
  | .exti r => a.exti.base + extiOffset a.exti r
  | .exticr k => a.exticrBase + BitVec.ofNat 32 (4 * k)
  | .gpio p r => let x := a.gpio[p]?.getD default; x.base + portOffset x r
  | .spi k r => let x := a.spi.getD k default; x.base + spiOffset x r

/-- `N_BANK` (00_scope.md R6). -/
def nBank (n : Nat) : Nat := (n + 31) / 32
/-- `N_IPR` (00_scope.md R6). -/
def nIpr (n : Nat) : Nat := (n + 3) / 4

/-- Every register of a block with `n` sources and `k` SPI instances (R57). -/
def allRegs (n k : Nat) : List Reg :=
  (List.range (nBank n)).map Reg.iser ++ (List.range (nBank n)).map Reg.icer ++ (List.range (nIpr n)).map Reg.ipr
    ++ [ExtiReg.imr, .rtsr, .ftsr, .pr].map Reg.exti ++ (List.range 4).map Reg.exticr
    ++ (List.range 9).flatMap (fun p =>
        [PortReg.moder, .ospeedr, .pupdr, .otyper, .idr, .odr, .afr0, .afr1].map (Reg.gpio p))
    ++ (List.range k).flatMap (fun s => [SpiReg.cr1, .cr2, .sr, .dr].map (Reg.spi s))

/-- The register at an address, if any: `RegRead(REG)` is the 4-byte access at `ADDR(REG)` (R48). -/
def regAt (c : Config) (a : Word) : Option Reg :=
  (allRegs c.nIrq c.spiIrq.length).find? (fun r => regAddr c.addr r == a)

/-- The address lies in a declared RAM range (R53). -/
def inRam (ram : List RamRange) (a : Word) : Bool :=
  ram.any (fun r => r.base ≤ a.toNat && a.toNat < r.base + r.size)

/-! ## Well-formed parameters (00_scope.md R6, 20_memory.md R56 and R57, 92_eei_decisions.md D3, D4, D5, D44) -/

/-- No two addresses of a list are equal. -/
def distinctNats : List Nat → Bool
  | [] => true
  | a :: l => !l.contains a && distinctNats l

/-- Positions distinct within each register (D4). -/
def posWf (p : FieldPos) : Bool :=
  distinctNats [p.txeie.val, p.rxneie.val, p.errie.val]
    && distinctNats [p.txe.val, p.rxne.val, p.bsy.val, p.ovr.val, p.crcerr.val, p.modf.val]

/-- The address is a multiple of 4. -/
def wordAligned (a : Word) : Bool := a.toNat % 4 == 0

/-- Bases and register addresses word-aligned (R56, D3), registers apart from each other and from RAM (R57). -/
def addrWf (c : Config) : Bool :=
  let regs := (allRegs c.nIrq c.spiIrq.length).map (regAddr c.addr)
  c.addr.spi.length == c.spiIrq.length
    && (addrBases c.addr).all wordAligned
    && regs.all (fun a => wordAligned a && [a, a + 1, a + 2, a + 3].all (fun b => !inRam c.ram b))
    && distinctNats (regs.map BitVec.toNat)

/-- Source numbers in range, `SPI_IRQ` values distinct from each other and from every `EXTI_IRQ` value (D5, D44). -/
def sourcesWf (c : Config) : Bool :=
  1 ≤ c.nIrq.val && c.extiIrq.toList.all (fun i => i < c.nIrq.val) && c.spiIrq.all (fun i => i < c.nIrq.val)
    && distinctNats c.spiIrq && c.spiIrq.all (fun i => !c.extiIrq.toList.contains i)

/-- The constraints the spec puts on the parameters. An instance's number must fit the field `A` of the command that
its `ISR_BODY` is (R146): `N_SPI <= 256` (DEDUCED, log 15). -/
def configWf (c : Config) : Bool :=
  sourcesWf c && posWf c.pos && addrWf c && 1 ≤ c.spiIrq.length && c.spiIrq.length ≤ 256
    && c.ram.all (fun r => r.base + r.size ≤ 2 ^ 32)

end Sys2Proof.Machine
end

