-- ==== Sys2Proof/Machine/Flags.lean ====
section
/-! DEFINITION. Flags and the levels computed from them (10_state.md R19, R21, R36, R42, R45; 41_exti_router.md
R100; 43_spi_engine.md R134; 60_exceptions.md R143). -/

namespace Sys2Proof.Machine

/-! ## Device records -/

/-- Port `p`. -/
def State.port (s : State) (p : Nat) : Port := s.gpio[p]?.getD default

/-- SPI instance `k`. -/
def State.inst (s : State) (k : Nat) : Spi := s.spi.getD k default

/-- `N_SPI`. -/
def State.nSpi (s : State) : Nat := s.spi.length

/-- `TC[s][d]` of an instance. -/
def Spi.tc (x : Spi) : Direction → TransferCtx
  | .tx => x.tx
  | .rx => x.rx

/-- `fs(s)` (R34). -/
def State.frameSizeOf (s : State) (k : Nat) : FrameSize := frameSize s.cfg.pos (s.inst k).cr1

/-! ## Controller (R19, R20, R42) -/

/-- `EN[i]`. -/
def State.enabled (s : State) (i : Nat) : Bool := s.nvic.en.getLsbD i
/-- `PEND[i]`. -/
def State.pending (s : State) (i : Nat) : Bool := s.nvic.pend.getLsbD i
/-- `ACT[i]`. -/
def State.active (s : State) (i : Nat) : Bool := s.nvic.act.getLsbD i

/-- `PRIO(i)` (R19). -/
def State.prio (s : State) (i : Nat) : Nat :=
  ((s.nvic.ipr[iprOf i]?.getD 0 >>> priorityShift i) &&& BitVec.ofNat 32 (2 ^ prioBits - 1)).toNat

/-- `THREAD` (R42). -/
def threadPriority : Nat := 2 ^ prioBits

/-- The least priority of the active sources of a list, `THREAD` if none is. -/
def State.leastActive (s : State) : List Nat → Nat
  | [] => threadPriority
  | i :: l => if s.active i then min (s.prio i) (s.leastActive l) else s.leastActive l

/-- `EXECPRI` (R42). -/
def State.execPri (s : State) : Nat := s.leastActive (List.range s.cfg.nIrq)

/-- `EXECPRI` is computed once for the choice of R143. -/
def State.eligibleAt (s : State) (pri i : Nat) : Bool :=
  s.enabled i && s.pending i && !s.active i && decide (s.prio i < pri)

/-- Source `i` is eligible (R143). -/
def State.eligible (s : State) (i : Nat) : Bool := s.eligibleAt s.execPri i

/-- The eligible source of a rising list with the lowest priority number, and among equals the lowest index (R143). -/
def State.bestOf (s : State) (pri : Nat) : List Nat → Option Nat
  | [] => none
  | i :: l =>
    match s.bestOf pri l with
    | none => if s.eligibleAt pri i then some i else none
    | some j => if s.eligibleAt pri i && decide (s.prio i ≤ s.prio j) then some i else some j

/-- The source an entry step takes, if any is eligible (R143). -/
def State.chosen (s : State) : Option Nat := s.bestOf s.execPri (List.range s.cfg.nIrq)

/-! ## Requests (R21) -/

/-- `SEL(l)`: the selected port of a line (R27). -/
def State.selected (s : State) (l : Nat) : Nat :=
  ((s.exticr[selectorReg l]?.getD 0 >>> selectorShift l) &&& 0xF).toNat

/-- `PR[l] & IMR[l]` (R100). -/
def State.lineRequests (s : State) (l : Nat) : Bool := s.exti.pr.getLsbD l && s.exti.imr.getLsbD l

/-- `EXTI_IRQ(l)`. -/
def extiSource (c : Config) (l : Nat) : Nat := c.extiIrq[l]?.getD 0

/-- `SPI_IRQ(k)`. -/
def spiSource (c : Config) (k : Nat) : Nat := c.spiIrq.getD k 0

/-- The EXTI part of `REQ(i)` (R100). -/
def State.extiRequest (s : State) (i : Nat) : Bool :=
  (List.range 16).any (fun l => extiSource s.cfg l == i && s.lineRequests l)

/-- The request line of an SPI instance (R134). -/
def Spi.request (p : FieldPos) (x : Spi) : Bool :=
  (x.sr.getLsbD p.txe && x.cr2.getLsbD p.txeie) || (x.sr.getLsbD p.rxne && x.cr2.getLsbD p.rxneie)
    || ((x.sr.getLsbD p.ovr || x.sr.getLsbD p.crcerr || x.sr.getLsbD p.modf) && x.cr2.getLsbD p.errie)

/-- The SPI part of `REQ(i)` (R134). -/
def State.spiRequest (s : State) (i : Nat) : Bool :=
  (List.range s.nSpi).any (fun k => spiSource s.cfg k == i && (s.inst k).request s.cfg.pos)

/-- Source `i` belongs to no EXTI line and no SPI instance (R21). -/
def State.otherSource (s : State) (i : Nat) : Bool :=
  (List.range 16).all (fun l => extiSource s.cfg l != i) && (List.range s.nSpi).all (fun k => spiSource s.cfg k != i)

/-- `REQ(i)` (R21). -/
def State.request (s : State) (i : Nat) : Bool :=
  s.extiRequest i || s.spiRequest i || (s.otherSource i && s.extReq.getLsbD i)

/-! ## Flags of `SR` changed by accesses (R36, R129, R132, R133) -/

/-- A `DR` write hands over a frame and clears `TXE` (R129). -/
def Spi.afterDrWrite (p : FieldPos) (v : Word) (x : Spi) : Spi :=
  { x with txq := some (((frameSize p x.cr1).low v).setWidth 16), sr := putBit x.sr p.txe false }

/-- A `DR` read clears `RXNE`, and sets `OVRSEQ` if `OVR = 1` (R132). -/
def Spi.afterDrRead (p : FieldPos) (x : Spi) : Spi :=
  { x with sr := putBit x.sr p.rxne false, ovrseq := x.ovrseq || x.sr.getLsbD p.ovr }

/-- An `SR` read clears `OVR` and `OVRSEQ` if both are set (R132). -/
def Spi.afterSrRead (p : FieldPos) (x : Spi) : Spi :=
  if x.sr.getLsbD p.ovr && x.ovrseq then { x with sr := putBit x.sr p.ovr false, ovrseq := false } else x

/-- An `SR` write clears `CRCERR` if the written bit is 0, and changes no other flag (R133). -/
def Spi.afterSrWrite (p : FieldPos) (v : Word) (x : Spi) : Spi :=
  if v.getLsbD p.crcerr then x else { x with sr := putBit x.sr p.crcerr false }

/-- The flags of `SR` (R36). -/
def srFlags (p : FieldPos) : Word :=
  oneHot p.txe ||| oneHot p.rxne ||| oneHot p.bsy ||| oneHot p.ovr ||| oneHot p.crcerr ||| oneHot p.modf

/-- A sub-handler's condition on the values `<h1>` and `<h2>` read (R113). -/
def handlerRuns (p : FieldPos) (h : Handler) (sr cr2 : Word) : Bool :=
  match h with
  | .tick .tx => sr.getLsbD p.txe && cr2.getLsbD p.txeie
  | .tick .rx => sr.getLsbD p.rxne && cr2.getLsbD p.rxneie
  | .ovr => sr.getLsbD p.ovr && cr2.getLsbD p.errie
  | .crc => sr.getLsbD p.crcerr && cr2.getLsbD p.errie

end Sys2Proof.Machine
end

