-- ==== Sys2Proof/Machine/Ops.lean ====
section
/-! DEFINITION. The named operations: register accesses (20_memory.md R48 to R50), buffer memory (R53 to R55), the
position of a context (10_state.md R41), raising a fault (60_exceptions.md R137), refusing a word (30_encoding.md
R78), the callback (43_spi_engine.md R121), and taking and leaving an interrupt (60_exceptions.md R144, R145). -/

namespace Sys2Proof.Machine

/-! ## Updates of device records -/

/-- Replace port `p`. -/
def State.setPort (s : State) (p : Nat) (x : Port) : State := { s with gpio := s.gpio.setIfInBounds p x }

/-- Replace SPI instance `k`. -/
def State.setInst (s : State) (k : Nat) (x : Spi) : State := { s with spi := s.spi.set k x }

/-- Change SPI instance `k`. -/
def State.mapInst (s : State) (k : Nat) (f : Spi → Spi) : State := s.setInst k (f (s.inst k))

/-- Replace `TC[s][d]` of an instance. -/
def Spi.setTc (x : Spi) (d : Direction) (t : TransferCtx) : Spi :=
  match d with
  | .tx => { x with tx := t }
  | .rx => { x with rx := t }

/-- `TC[k][d]`. -/
def State.tc (s : State) (k : Nat) (d : Direction) : TransferCtx := (s.inst k).tc d

/-- `TC[k][d].buf <- v`. -/
def State.setBuf (s : State) (k : Nat) (d : Direction) (v : Word) : State :=
  s.mapInst k (fun x => x.setTc d { x.tc d with buf := v })

/-- `TC[k][d].len <- v`. -/
def State.setLen (s : State) (k : Nat) (d : Direction) (v : Word) : State :=
  s.mapInst k (fun x => x.setTc d { x.tc d with len := v })

/-- `TC[k][d].st <- v`. -/
def State.setSt (s : State) (k : Nat) (d : Direction) (v : TransferState) : State :=
  s.mapInst k (fun x => x.setTc d { x.tc d with st := v })

/-- `BLK[k] <- b`. -/
def State.setBlk (s : State) (k : Nat) (b : Bool) : State := s.mapInst k (fun x => { x with blk := b })

/-! ## Register accesses (R48 to R50) -/

/-- The value a port register holds. -/
def Port.get (x : Port) : PortReg → Word
  | .moder => x.moder
  | .ospeedr => x.ospeedr
  | .pupdr => x.pupdr
  | .otyper => x.otyper
  | .idr => x.pin.setWidth 32
  | .odr => x.odr
  | .afr0 => x.afr0
  | .afr1 => x.afr1

/-- A write of a port register; `IDR` ignores it (R32). -/
def Port.put (x : Port) (r : PortReg) (v : Word) : Port :=
  match r with
  | .moder => { x with moder := v }
  | .ospeedr => { x with ospeedr := v }
  | .pupdr => { x with pupdr := v }
  | .otyper => { x with otyper := v }
  | .idr => x
  | .odr => { x with odr := v }
  | .afr0 => { x with afr0 := v }
  | .afr1 => { x with afr1 := v }

/-- The value an EXTI register holds. -/
def Exti.get (x : Exti) : ExtiReg → Word
  | .imr => x.imr
  | .rtsr => x.rtsr
  | .ftsr => x.ftsr
  | .pr => x.pr

/-- A write of an EXTI register; `PR` is write-1-to-clear (R25). -/
def Exti.put (x : Exti) (r : ExtiReg) (v : Word) : Exti :=
  match r with
  | .imr => { x with imr := v }
  | .rtsr => { x with rtsr := v }
  | .ftsr => { x with ftsr := v }
  | .pr => { x with pr := x.pr &&& ~~~v }

/-- The value an SPI register access returns; `DR` returns the received frame (R37). -/
def Spi.get (x : Spi) : SpiReg → Word
  | .cr1 => x.cr1
  | .cr2 => x.cr2
  | .sr => x.sr
  | .dr => x.rxbuf.setWidth 32

/-- A write of an SPI register (R129, R133). -/
def Spi.put (p : FieldPos) (x : Spi) (r : SpiReg) (v : Word) : Spi :=
  match r with
  | .cr1 => { x with cr1 := v }
  | .cr2 => { x with cr2 := v }
  | .sr => x.afterSrWrite p v
  | .dr => x.afterDrWrite p v

/-- The value `RegRead(REG)` returns (R48). Unimplemented bits and absent sources read as zero (R16 to R18). -/
def State.regValue (s : State) : Reg → Word
  | .iser b => ((s.nvic.en &&& presentSources s.cfg.nIrq) >>> (32 * b)).setWidth 32
  | .icer b => ((s.nvic.en &&& presentSources s.cfg.nIrq) >>> (32 * b)).setWidth 32
  | .ipr r => s.nvic.ipr[r]?.getD 0 &&& iprMask s.cfg.nIrq r
  | .exti e => s.exti.get e
  | .exticr k => s.exticr[k]?.getD 0
  | .gpio p r => (s.port p).get r
  | .spi k r => (s.inst k).get r

/-- The state after `RegRead(REG)`: only an SPI `SR` or `DR` read has a side effect (R50). -/
def State.afterRead (s : State) : Reg → State
  | .iser _ => s
  | .icer _ => s
  | .ipr _ => s
  | .exti _ => s
  | .exticr _ => s
  | .gpio _ _ => s
  | .spi _ .cr1 => s
  | .spi _ .cr2 => s
  | .spi k .sr => s.mapInst k (Spi.afterSrRead s.cfg.pos)
  | .spi k .dr => s.mapInst k (Spi.afterDrRead s.cfg.pos)

/-- `RegWrite(REG, v)` (R48, R50). `ISER` sets and `ICER` clears the enables of the bits written 1 (R16, R17); the
unimplemented bits of `IPR` ignore writes (R18). -/
def State.regWrite (s : State) (r : Reg) (v : Word) : State :=
  match r with
  | .iser b => { s with nvic := { s.nvic with en := s.nvic.en ||| (bankBits b v &&& presentSources s.cfg.nIrq) } }
  | .icer b => { s with nvic := { s.nvic with en := s.nvic.en &&& ~~~(bankBits b v &&& presentSources s.cfg.nIrq) } }
  | .ipr r => { s with nvic := { s.nvic with ipr := s.nvic.ipr.setIfInBounds r (v &&& iprMask s.cfg.nIrq r) } }
  | .exti e => { s with exti := s.exti.put e v }
  | .exticr k => { s with exticr := s.exticr.setIfInBounds k v }
  | .gpio p r => s.setPort p ((s.port p).put r v)
  | .spi k r => s.mapInst k (fun x => x.put s.cfg.pos r v)

/-! ## Buffer memory (R53 to R55) -/

/-- What an address that memory does not list reads as. DESIGN CHOICE (log 8). -/
def unlisted : Byte := 0

/-- The byte at an address. -/
def Memory.byte : Memory → Nat → Byte
  | [], _ => unlisted
  | (k, v) :: m, a => if k = a then v else Memory.byte m a

/-- Put a byte at the head of the rest of a memory, unless it is what an unlisted address reads as. -/
def Memory.cons (a : Nat) (v : Byte) (m : Memory) : Memory := if v = unlisted then m else (a, v) :: m

/-- Write one byte, keeping the canonical form. -/
def Memory.write : Memory → Nat → Byte → Memory
  | [], a, v => Memory.cons a v []
  | (k, x) :: m, a, v =>
    if a < k then Memory.cons a v ((k, x) :: m)
    else if a = k then Memory.cons a v m
    else (k, x) :: Memory.write m a v

/-- The canonical form: addresses strictly rising and in the address space, no entry equal to what an unlisted
address reads as. -/
abbrev Memory.wf (m : Memory) : Prop :=
  m.Pairwise (fun x y => x.1 < y.1) ∧ ∀ c ∈ m, c.2 ≠ unlisted ∧ c.1 < 2 ^ 32

/-- The addresses of a frame at `a`; `a + 1` wraps modulo 2^32 (R10, R55). -/
def frameAddrs (a : Word) : FrameSize → List Word
  | .one => [a]
  | .two => [a, a + 1]

/-- A frame access at `a` stays inside the declared RAM (R53, log 11). -/
def State.ramOk (s : State) (a : Word) (f : FrameSize) : Bool := (frameAddrs a f).all (inRam s.cfg.ram)

/-- `MemRead(a, f)`, little-endian (R55), zero-extended. -/
def Memory.readFrame (m : Memory) (a : Word) : FrameSize → Word
  | .one => (m.byte a.toNat).setWidth 32
  | .two => (m.byte a.toNat).setWidth 32 ||| ((m.byte (a + 1).toNat).setWidth 32 <<< 8)

/-- `MemWrite(a, f, v)`, little-endian, one micro-step (R55). -/
def Memory.writeFrame (m : Memory) (a : Word) (f : FrameSize) (v : Word) : Memory :=
  match f with
  | .one => m.write a.toNat (v.setWidth 8)
  | .two => (m.write a.toNat (v.setWidth 8)).write (a + 1).toNat ((v >>> 8).setWidth 8)

/-- Memory after a frame write. -/
def State.storeFrame (s : State) (a : Word) (f : FrameSize) (v : Word) : State :=
  { s with mem := s.mem.writeFrame a f v }

/-! ## The running context (R41) -/

/-- The top (innermost) context. -/
def Stack.top (k : Stack) : Thread :=
  match k.isrs with
  | [] => k.fg
  | i :: _ => i.thread

/-- Replace the top context. -/
def Stack.setTop (k : Stack) (t : Thread) : Stack :=
  match k.isrs with
  | [] => { k with fg := t }
  | i :: l => { k with isrs := { i with thread := t } :: l }

/-- The kind of the top context. -/
def Stack.kind (k : Stack) : Kind :=
  match k.isrs with
  | [] => .fg
  | i :: _ => .isr i.source

/-- The top context. -/
def State.top (s : State) : Thread := s.stack.top

/-- Replace the top context. -/
def State.setTop (s : State) (t : Thread) : State := { s with stack := s.stack.setTop t }

/-- `mstate` of the top context. -/
def State.mstate (s : State) : MState := s.top.cur.mst

/-- The words of a frame from its current command on. -/
def Frame.rest (f : Frame) : List Word := skipCommands f.pc f.prog

/-- The frame's `pc` has passed its last command. -/
def Frame.ended (f : Frame) : Bool := f.rest.isEmpty

/-- The frame with its current command completed: `pc + 1` and a fresh `mstate` (R41). -/
def Frame.advance (f : Frame) : Frame := { f with pc := f.pc + 1, mst := .fresh }

/-- A command list that has run out hands back to the list whose NOTIFY spliced it in, which goes on after NOTIFY;
where nothing is left of that dispatch, its command completes too (R121, log 10). -/
def resume (cur : Frame) : List Frame → Frame × List Frame
  | [] => (cur, [])
  | f :: fs =>
    if cur.ended then
      match f.mst with
      | .dispatch [] => resume f.advance fs
      | _ => (f, fs)
    else (cur, f :: fs)

/-- The context after its current command completes. -/
def Thread.complete (t : Thread) : Thread :=
  { t with cur := (resume t.cur.advance t.outer).1, outer := (resume t.cur.advance t.outer).2 }

/-- The context has completed (R41): every list has run out, and it is not stuck. -/
def Thread.completed (t : Thread) : Bool := t.stuck.isNone && t.outer.isEmpty && t.cur.ended

/-- The command goes on at a position. -/
def State.goto (s : State) (m : MState) : State := s.setTop { s.top with cur := { s.top.cur with mst := m } }

/-- The command completes (R41). -/
def State.complete (s : State) : State := s.setTop s.top.complete

/-- The top context makes no further step (R12, R139). -/
def State.stick (s : State) (why : Stuck) : State := s.setTop { s.top with stuck := some why }

/-- `raise Fault(code)` (R137): the record joins the set `FAULT` and the context is stuck. Nothing is rolled back. -/
def State.raise (s : State) (c : FaultCode) : State :=
  { s with faults := s.faults.insert { code := c, kind := s.stack.kind, pc := s.top.cur.pc } }.stick (.faulted c)

/-- `refuse` (R78): `REFUSED <- 1`, and the context that fetched the word is stuck. -/
def State.refuse (s : State) : State := { s with refused := true }.stick .refused

/-- Append an operation's result to `RES` (R43). -/
def State.result (s : State) (v : ResultValue) : State :=
  { s with res := s.res ++ [{ kind := s.stack.kind, pc := s.top.cur.pc, value := v }] }

/-- A dispatch goes on with its remaining sub-handlers, or its command completes (R113). -/
def State.continueDispatch (s : State) (rest : List Handler) : State :=
  match rest with
  | [] => s.complete
  | h :: l => s.goto (.dispatch (h :: l))

/-- `CALLBACK(k, ev)` (R121). -/
def callbackOf (c : Config) (k : Nat) (ev : Event) : List Word := (c.callbacks.lookup (k, ev)).getD []

/-- Run a command list inside the current command: the command waits at `m`. -/
def State.splice (s : State) (m : MState) (prog : List Word) : State :=
  s.setTop { s.top with cur := { prog := prog, pc := 0, mst := .fresh },
                        outer := { s.top.cur with mst := m } :: s.top.outer }

/-- `emit(k, ev)`: append the event to `LOG` (R9, R43). -/
def State.emit (s : State) (k : Nat) (ev : Event) : State := { s with log := s.log ++ [(k, ev)] }

/-- Run a callback's commands in the current context, then go on with the dispatch; an empty callback takes no step. -/
def State.runCallback (s : State) (prog : List Word) (rest : List Handler) : State :=
  match prog with
  | [] => s.continueDispatch rest
  | w :: ws => s.splice (.dispatch rest) (w :: ws)

/-- `NOTIFY(k, ev)` inside a dispatch that has `rest` left (R121): log the event, run the callback in the current
context, then go on. It takes no access, so it belongs to the micro-step before it (log 3). -/
def State.notify (s : State) (k : Nat) (ev : Event) (rest : List Handler) : State :=
  (s.emit k ev).runCallback (callbackOf s.cfg k ev) rest

/-! ## Taking and leaving an interrupt (60_exceptions.md R144 to R146) -/

/-- The instance whose source `i` is. -/
def instanceOf (c : Config) (n i : Nat) : Option Nat := (List.range n).find? (fun k => spiSource c k == i)

/-- `ISR_BODY(i)` (R146): `spi_irq_handle k` for the source of instance `k`, else the launch's list, by default
empty. -/
def State.isrBody (s : State) (i : Nat) : List Word :=
  match instanceOf s.cfg s.nSpi i with
  | some k => encode (.spiIrqHandle (BitVec.ofNat 8 k))
  | none => (s.cfg.isrBodies.lookup i).getD []

/-- The single bit of source `i`. -/
def sourceBit (i : Nat) : BitVec 240 := 1#240 <<< i

/-- Taking source `i` (R144): one step; nothing of the preempted context or of a device is saved or changed. -/
def State.takeInterrupt (s : State) (i : Nat) : State :=
  { s with
    nvic := { s.nvic with pend := s.nvic.pend &&& ~~~(sourceBit i), act := s.nvic.act ||| sourceBit i },
    stack := { s.stack with isrs := { source := i, thread := Thread.start (s.isrBody i) } :: s.stack.isrs } }

/-- Return from the top interrupt context (R145). With no interrupt context there is nothing to return from. -/
def State.returnInterrupt (s : State) : State :=
  match s.stack.isrs with
  | [] => s
  | i :: l =>
    { s with nvic := { s.nvic with act := s.nvic.act &&& ~~~(sourceBit i.source) },
             stack := { s.stack with isrs := l } }

/-- The top context is an interrupt context that has completed: its return is the next step (R145). -/
def State.mustReturn (s : State) : Bool :=
  match s.stack.isrs with
  | [] => false
  | i :: _ => i.thread.completed

end Sys2Proof.Machine
end

