-- ==== Sys2Proof/Machine/Agents.lean ====
section
/-! DEFINITION. The agents beside the running context: NVIC (60_exceptions.md R142, R143), PINS (41_exti_router.md
R99), SPIDEV (43_spi_engine.md R130, R131, R133) and the other sources' requests (10_state.md R21). A move that the
rules do not allow in a state changes nothing (log 12). -/

namespace Sys2Proof.Machine

/-- The pending latch (R142). -/
def State.pendSource (s : State) (i : Nat) : State :=
  if decide (i < s.cfg.nIrq) && s.request i && !s.active i
  then { s with nvic := { s.nvic with pend := s.nvic.pend ||| sourceBit i } } else s

/-- The entry step (R143, R144). -/
def State.enterChosen (s : State) : State :=
  match s.chosen with
  | some i => s.takeInterrupt i
  | none => s

/-- Line `n` detects the change of its pin from level `old` (R99): the trigger policy matches, and the line is
unmasked or latches while masked. -/
def State.detects (s : State) (n : Nat) (old : Bool) : Bool :=
  (if old then s.exti.ftsr.getLsbD n else s.exti.rtsr.getLsbD n) && (s.exti.imr.getLsbD n || s.cfg.prLatchMasked)

/-- PINS changes one level; the line that selects the pin may latch the edge (R99). A line whose selector holds a
reserved code selects no port. -/
def State.changePin (s : State) (p : Fin 9) (n : Fin 16) : State :=
  let x := s.port p
  let old := x.pin.getLsbD n
  let t := s.setPort p { x with pin := x.pin ^^^ (1#16 <<< n.val) }
  if s.selected n = p.val && s.detects n old
  then { t with exti := { t.exti with pr := t.exti.pr ||| oneHot n } } else t

/-- The environment sets another source's request level (R21). -/
def State.setRequest (s : State) (i : Nat) (level : Bool) : State :=
  if s.otherSource i
  then { s with extReq := if level then s.extReq ||| sourceBit i else s.extReq &&& ~~~(sourceBit i) } else s

/-- One step of SPIDEV (R130, R131, R133). -/
def Spi.react (p : FieldPos) (e : SpiEvent) (x : Spi) : Spi :=
  match e with
  | .takeFrame =>
    match x.txq with
    | some f =>
      { x with txout := x.txout ++ [f], txq := none, sr := putBit (putBit x.sr p.txe true) p.bsy true }
    | none => x
  | .arrive v replace =>
    let f := ((frameSize p x.cr1).low (v.setWidth 32)).setWidth 16
    if x.sr.getLsbD p.rxne
    then { x with sr := putBit x.sr p.ovr true, rxbuf := if replace then f else x.rxbuf }
    else { x with rxbuf := f, sr := putBit x.sr p.rxne true }
  | .busy b => { x with sr := putBit x.sr p.bsy b }
  | .modeFault => { x with sr := putBit x.sr p.modf true }
  | .crcError => { x with sr := putBit x.sr p.crcerr true }
  | .opaqueBits v => { x with sr := (x.sr &&& srFlags p) ||| (v &&& ~~~(srFlags p)) }

/-- SPIDEV of instance `k` steps. -/
def State.spiEvent (s : State) (k : Nat) (e : SpiEvent) : State :=
  if k < s.nSpi then s.mapInst k (Spi.react s.cfg.pos e) else s

end Sys2Proof.Machine
end

