-- ==== Sys2Proof/Machine/Controller.lean ====
section
/-! DEFINITION. Interrupt controller abstraction: IRQ_SET_ENABLED and IRQ_SET_PRIORITY (40_nvic.md). -/

namespace Sys2Proof.Machine

open Host (Outcome)

/-- IRQ_SET_ENABLED (R84): one one-hot write to the enable or the disable bank. -/
def execIrqSetEnabled (index : BitVec 8) (enabled : Bool) (s : State) : Outcome State Fault Refusal :=
  match s.mstate with
  | .fresh =>
    if s.cfg.nIrq ≤ index.toNat then .next (s.raise .badIrq)
    else
      let bank := bankOf index.toNat
      .next (s.regWrite (if enabled then .iser bank else .icer bank) (oneHot (bitOf index.toNat))).complete
  | _ => .fault .foreignMicroState

/-- IRQ_SET_PRIORITY (R85): read the priority register, write back the OR. -/
def execIrqSetPriority (index priority : BitVec 8) (s : State) : Outcome State Fault Refusal :=
  let r := Reg.ipr (iprOf index.toNat)
  match s.mstate with
  | .fresh =>
    if s.cfg.nIrq ≤ index.toNat then .next (s.raise .badIrq)
    else if 2 ^ prioBits ≤ priority.toNat then .next (s.raise .badPrio)
    else .next ((s.afterRead r).goto (.priorityWrite (s.regValue r)))
  | .priorityWrite v =>
    .next (s.regWrite r (v ||| (priority.setWidth 32 <<< priorityShift index.toNat))).complete
  | _ => .fault .foreignMicroState

end Sys2Proof.Machine
end

