-- ==== Sys2Proof/Machine/Router.lean ====
section
/-! DEFINITION. The external-interrupt line router: EXTI_CONFIGURE and EXTI_HANDLE (41_exti_router.md). -/

namespace Sys2Proof.Machine

open Host (Outcome)

/-- The trigger register that step 1 sets first (R93). -/
def firstTrigger : Trigger → Reg
  | .rising => .exti .rtsr
  | .both => .exti .rtsr
  | .falling => .exti .ftsr

/-- The other trigger register of step 1 (R93). -/
def otherTrigger : Trigger → Reg
  | .rising => .exti .ftsr
  | .both => .exti .ftsr
  | .falling => .exti .rtsr

/-- What step 1 writes to the other trigger register: the bit set for both edges, cleared for a single edge. -/
def otherTriggerValue (t : Trigger) (n : Nat) (v : Word) : Word :=
  match t with
  | .both => v ||| oneHot n
  | .rising => v &&& ~~~(oneHot n)
  | .falling => v &&& ~~~(oneHot n)

/-- One access of ROUTER(n, p, t) (R93 to R95), and the position after it; `none` when the Router has finished. -/
def routerStep (n p : Nat) (t : Trigger) (pos : RouterPos) (s : State) : Option RouterPos × State :=
  let sel := Reg.exticr (selectorReg n)
  match pos with
  | .setRead => (some (.setWrite (s.regValue (firstTrigger t))), s.afterRead (firstTrigger t))
  | .setWrite v => (some .otherRead, s.regWrite (firstTrigger t) (v ||| oneHot n))
  | .otherRead => (some (.otherWrite (s.regValue (otherTrigger t))), s.afterRead (otherTrigger t))
  | .otherWrite v => (some .select, s.regWrite (otherTrigger t) (otherTriggerValue t n v))
  | .select =>
    match s.cfg.exticrMode with
    | .merge => (some (.selectWrite (s.regValue sel)), s.afterRead sel)
    | .whole => (some .maskRead, s.regWrite sel (BitVec.ofNat 32 p <<< selectorShift n))
  | .selectWrite v => (some .maskRead, s.regWrite sel (insertField v 0xF (BitVec.ofNat 32 p) (selectorShift n)))
  | .maskRead => (some (.maskWrite (s.regValue (.exti .imr))), s.afterRead (.exti .imr))
  | .maskWrite v => (none, s.regWrite (.exti .imr) (v ||| oneHot n))

/-- The command goes on in the Router, or after it. -/
def afterRouter (after : State → State) (r : Option RouterPos × State) : State :=
  match r.1 with
  | some pos => r.2.goto (.router pos)
  | none => after r.2

/-- EXTI_CONFIGURE (R92). -/
def execExtiConfigure (pin port trigger : BitVec 8) (s : State) : Outcome State Fault Refusal :=
  match s.mstate with
  | .fresh =>
    if 15 < pin.toNat then .next (s.raise .badPin)
    else if 8 < port.toNat then .next (s.raise .badPort)
    else
      match triggerOfCode trigger with
      | none => .next (s.raise .badTrigger)
      | some t => .next (afterRouter State.complete (routerStep pin.toNat port.toNat t .setRead s))
  | .router pos =>
    match triggerOfCode trigger with
    | none => .fault .foreignMicroState
    | some t => .next (afterRouter State.complete (routerStep pin.toNat port.toNat t pos s))
  | _ => .fault .foreignMicroState

/-- EXTI_HANDLE (R97): if the line is pending, clear it by writing its one bit. -/
def execExtiHandle (pin : BitVec 8) (s : State) : Outcome State Fault Refusal :=
  match s.mstate with
  | .fresh =>
    if 15 < pin.toNat then .next (s.raise .badPin)
    else if (s.regValue (.exti .pr)).getLsbD pin.toNat then .next ((s.afterRead (.exti .pr)).goto .pendingClear)
    else .next (s.afterRead (.exti .pr)).complete
  | .pendingClear => .next (s.regWrite (.exti .pr) (oneHot pin.toNat)).complete
  | _ => .fault .foreignMicroState

end Sys2Proof.Machine
end

