-- ==== Sys2Proof/Machine/Gpio.lean ====
section
/-! DEFINITION. The digital I/O port driver: GPIO_CONFIGURE, GPIO_READ_PIN, GPIO_WRITE_PIN, GPIO_TOGGLE_PIN
(42_gpio_port.md). -/

namespace Sys2Proof.Machine

open Host (Outcome)

/-- A read of port register `r`, then on to the position `m` of the value read. -/
def readPort (p : Nat) (r : PortReg) (m : Word → MState) (s : State) : State :=
  (s.afterRead (.gpio p r)).goto (m (s.regValue (.gpio p r)))

/-- One access of GPIO_CONFIGURE outside the Router (R102), pin `n` of port `p`. -/
def gpioStep (n p : Nat) (m : PinMode) (cfg : Word) (pos : GpioPos) (s : State) : State :=
  match pos with
  | .moderWrite v =>
    let code := ((moderCode s.cfg.modeCode m).getD 0).setWidth 32
    (s.regWrite (.gpio p .moder) (insertField v 0x3 code (2 * n))).goto (.gpio .speedRead)
  | .speedRead => readPort p .ospeedr (fun v => .gpio (.speedWrite v)) s
  | .speedWrite v => (s.regWrite (.gpio p .ospeedr) (insertField v 0x3 (cfgSpeed cfg) (2 * n))).goto (.gpio .pullRead)
  | .pullRead => readPort p .pupdr (fun v => .gpio (.pullWrite v)) s
  | .pullWrite v => (s.regWrite (.gpio p .pupdr) (insertField v 0x3 (cfgPull cfg) (2 * n))).goto (.gpio .typeRead)
  | .typeRead => readPort p .otyper (fun v => .gpio (.typeWrite v)) s
  | .typeWrite v =>
    let s := s.regWrite (.gpio p .otyper) (insertField v 0x1 (cfgType cfg) n)
    if m = .alternate then s.goto (.gpio .afRead) else s.complete
  | .afRead => readPort p (afrReg n) (fun v => .gpio (.afWrite v)) s
  | .afWrite v => (s.regWrite (.gpio p (afrReg n)) (insertField v 0xF (cfgAf cfg) (afrShift n))).complete

/-- The first access of GPIO_CONFIGURE after its checks: `MODER` for a plain mode, the Router for an interrupt mode,
which leaves `MODER` alone. -/
def gpioFirst (n p : Nat) (m : PinMode) (s : State) : State :=
  match m with
  | .interrupt t => afterRouter (fun s => s.goto (.gpio .speedRead)) (routerStep n p t .setRead s)
  | .input => readPort p .moder (fun v => .gpio (.moderWrite v)) s
  | .output => readPort p .moder (fun v => .gpio (.moderWrite v)) s
  | .alternate => readPort p .moder (fun v => .gpio (.moderWrite v)) s
  | .analog => readPort p .moder (fun v => .gpio (.moderWrite v)) s

/-- GPIO_CONFIGURE (R102). -/
def execGpioConfigure (pin port mode : BitVec 8) (cfg : Word) (s : State) : Outcome State Fault Refusal :=
  match s.mstate with
  | .fresh =>
    if 15 < pin.toNat then .next (s.raise .badPin)
    else if 8 < port.toNat then .next (s.raise .badPort)
    else
      match pinModeOfCode mode with
      | none => .next (s.raise .badMode)
      | some m => .next (gpioFirst pin.toNat port.toNat m s)
  | .router pos =>
    match pinModeOfCode mode with
    | some (.interrupt t) =>
      .next (afterRouter (fun s => s.goto (.gpio .speedRead)) (routerStep pin.toNat port.toNat t pos s))
    | _ => .fault .foreignMicroState
  | .gpio pos =>
    match pinModeOfCode mode with
    | some m => .next (gpioStep pin.toNat port.toNat m cfg pos s)
    | none => .fault .foreignMicroState
  | _ => .fault .foreignMicroState

/-- GPIO_READ_PIN (R103). -/
def execGpioReadPin (pin port : BitVec 8) (s : State) : Outcome State Fault Refusal :=
  let r := Reg.gpio port.toNat .idr
  match s.mstate with
  | .fresh =>
    if 15 < pin.toNat then .next (s.raise .badPin)
    else if 8 < port.toNat then .next (s.raise .badPort)
    else .next ((s.afterRead r).result (.level ((s.regValue r).getLsbD pin.toNat))).complete
  | _ => .fault .foreignMicroState

/-- The read-modify-write of `ODR` that GPIO_WRITE_PIN and GPIO_TOGGLE_PIN share. -/
def odrUpdate (pin port : BitVec 8) (f : Word → Word) (s : State) : Outcome State Fault Refusal :=
  match s.mstate with
  | .fresh =>
    if 15 < pin.toNat then .next (s.raise .badPin)
    else if 8 < port.toNat then .next (s.raise .badPort)
    else .next (readPort port.toNat .odr MState.odrWrite s)
  | .odrWrite v => .next (s.regWrite (.gpio port.toNat .odr) (f v)).complete
  | _ => .fault .foreignMicroState

/-- GPIO_WRITE_PIN (R104). -/
def execGpioWritePin (pin port : BitVec 8) (value : Bool) (s : State) : Outcome State Fault Refusal :=
  odrUpdate pin port (fun v => putBit v pin.toNat value) s

/-- GPIO_TOGGLE_PIN (R105). -/
def execGpioTogglePin (pin port : BitVec 8) (s : State) : Outcome State Fault Refusal :=
  odrUpdate pin port (fun v => v ^^^ oneHot pin.toNat) s

end Sys2Proof.Machine
end

