-- ==== Sys2Proof/Machine/SpiTransfer.lean ====
section
/-! DEFINITION. The SPI engine's foreground operations: SPI_INIT, the blocking transfers, the starts and the closes
(43_spi_engine.md R107 to R112, R115, R122). -/

namespace Sys2Proof.Machine

open Host (Outcome)

/-- A read of SPI register `r`, then on to the position `m` of the value read. -/
def readSpi (k : Nat) (r : SpiReg) (m : Word → MState) (s : State) : State :=
  (s.afterRead (.spi k r)).goto (m (s.regValue (.spi k r)))

/-- A transfer is in flight on the instance: either direction BUSY, or a blocking transfer running (R108, R109). -/
def Spi.inFlight (x : Spi) : Bool := x.tx.st == .busy || x.rx.st == .busy || x.blk

/-! ## SPI_INIT -/

/-- SPI_INIT (R108): `<a0>` checks, `<a1>` writes `CR1`, `<a2>` writes `CR2`. -/
def execSpiInit (inst : BitVec 8) (dff errie : Bool) (cr1cfg : Word) (s : State) : Outcome State Fault Refusal :=
  let k := inst.toNat
  match s.mstate with
  | .fresh =>
    if s.nSpi ≤ k then .next (s.raise .badInstance)
    else if (s.inst k).inFlight then .next (s.raise .initBusy)
    else .next (s.goto (.init .cr1Write))
  | .init .cr1Write => .next ((s.regWrite (.spi k .cr1) (putBit cr1cfg s.cfg.pos.dff dff)).goto (.init .cr2Write))
  | .init .cr2Write => .next (s.regWrite (.spi k .cr2) (bitWord errie <<< s.cfg.pos.errie.val)).complete
  | _ => .fault .foreignMicroState

/-! ## Blocking transfers -/

/-- Where a blocking transfer with `len` bytes left goes on: the next frame's poll, or the wait for `BSY = 0`. -/
def blockNext (b len : Word) : BlockPos := if len = 0 then .idle else .poll b len

/-- The `SR` flag a blocking transfer polls before a frame. -/
def pollPos (pos : FieldPos) : Direction → Nat
  | .tx => pos.txe
  | .rx => pos.rxne

/-- One micro-step of a blocking transfer after `<a0>` (R109, R110). A wait reads `SR` once a step. -/
def blockStep (k : Nat) (d : Direction) (pos : BlockPos) (s : State) : State :=
  match pos with
  | .poll b len =>
    if (s.regValue (.spi k .sr)).getLsbD (pollPos s.cfg.pos d)
    then (s.afterRead (.spi k .sr)).goto (.blocking (.frame b len))
    else s.afterRead (.spi k .sr)
  | .frame b len =>
    let f := frameSize s.cfg.pos (s.regValue (.spi k .cr1))
    if len.toNat < f.bytes then (s.afterRead (.spi k .cr1)).raise .lenUnderflow
    else (s.afterRead (.spi k .cr1)).goto (.blocking (.first b len f))
  | .first b len f =>
    match d with
    | .tx =>
      if s.ramOk b f then s.goto (.blocking (.second b len f (s.mem.readFrame b f))) else s.stick .badAddress
    | .rx => readSpi k .dr (fun x => .blocking (.second b len f x)) s
  | .second b len f x =>
    let on := MState.blocking (blockNext (b + BitVec.ofNat 32 f.bytes) (len - BitVec.ofNat 32 f.bytes))
    match d with
    | .tx => (s.regWrite (.spi k .dr) x).goto on
    | .rx => if s.ramOk b f then (s.storeFrame b f (f.low x)).goto on else s.stick .badAddress
  | .idle =>
    if (s.regValue (.spi k .sr)).getLsbD s.cfg.pos.bsy then s.afterRead (.spi k .sr)
    else ((s.afterRead (.spi k .sr)).setBlk k false).complete

/-- A blocking transfer (R109, R110, R125): `<a0>` checks and sets `BLK`. -/
def blockingTransfer (d : Direction) (inst : BitVec 8) (buf len : Word) (s : State) : Outcome State Fault Refusal :=
  let k := inst.toNat
  match s.mstate with
  | .fresh =>
    if s.nSpi ≤ k then .next (s.raise .badInstance)
    else if (s.inst k).inFlight then .next (s.raise .mixedMode)
    else .next ((s.setBlk k true).goto (.blocking (blockNext buf len)))
  | .blocking pos => .next (blockStep k d pos s)
  | _ => .fault .foreignMicroState

/-- SPI_TRANSMIT (R109). -/
def execSpiTransmit (inst : BitVec 8) (buf len : Word) (s : State) : Outcome State Fault Refusal :=
  blockingTransfer .tx inst buf len s

/-- SPI_RECEIVE (R110). -/
def execSpiReceive (inst : BitVec 8) (buf len : Word) (s : State) : Outcome State Fault Refusal :=
  blockingTransfer .rx inst buf len s

/-! ## Starting an interrupt-driven transfer -/

/-- One micro-step of a start after `<t1>` (R111): `<t2>` to `<t6>`. -/
def startStep (k : Nat) (d : Direction) (buf len : Word) (pos : StartPos) (s : State) : State :=
  match pos with
  | .bufWrite => (s.setBuf k d buf).goto (.start .lenWrite)
  | .lenWrite => (s.setLen k d len).goto (.start .stWrite)
  | .stWrite => (s.setSt k d .busy).goto (.start .cr2Read)
  | .cr2Read => readSpi k .cr2 (fun v => .start (.cr2Write v)) s
  | .cr2Write v =>
    ((s.regWrite (.spi k .cr2) (v ||| oneHot (enablePos s.cfg.pos d))).result (.state .ready)).complete

/-- `start_transfer` (R111, R112). With `START_ATOMIC`, `<t1>` to `<t4>` are one micro-step. -/
def startTransfer (d : Direction) (inst : BitVec 8) (buf len : Word) (s : State) : Outcome State Fault Refusal :=
  let k := inst.toNat
  match s.mstate with
  | .fresh =>
    if s.nSpi ≤ k then .next (s.raise .badInstance)
    else if (s.inst k).blk then .next (s.raise .mixedMode)
    else
      match (s.tc k d).st with
      | .busy => .next (s.result (.state .busy)).complete
      | .ready =>
        if s.cfg.startAtomic
        then .next ((((s.setBuf k d buf).setLen k d len).setSt k d .busy).goto (.start .cr2Read))
        else .next (s.goto (.start .bufWrite))
  | .start pos => .next (startStep k d buf len pos s)
  | _ => .fault .foreignMicroState

/-- SPI_START_TX (R111). -/
def execSpiStartTx (inst : BitVec 8) (buf len : Word) (s : State) : Outcome State Fault Refusal :=
  startTransfer .tx inst buf len s

/-- SPI_START_RX (R112). -/
def execSpiStartRx (inst : BitVec 8) (buf len : Word) (s : State) : Outcome State Fault Refusal :=
  startTransfer .rx inst buf len s

/-! ## Closing a transfer -/

/-- One micro-step of `CLOSE(k, d)` (R107), and the position after it; `none` when it has finished. -/
def closeStep (k : Nat) (d : Direction) (pos : ClosePos) (s : State) : Option ClosePos × State :=
  match pos with
  | .cr2Read => (some (.cr2Write (s.regValue (.spi k .cr2))), s.afterRead (.spi k .cr2))
  | .cr2Write v => (some .bufWrite, s.regWrite (.spi k .cr2) (putBit v (enablePos s.cfg.pos d) false))
  | .bufWrite => (some .lenWrite, s.setBuf k d 0)
  | .lenWrite => (some .stWrite, s.setLen k d 0)
  | .stWrite => (none, s.setSt k d .ready)

/-- The guard of `<k0>` (R122): source `q` could preempt the caller, or its handler is suspended beneath it. -/
def State.unsafeClose (s : State) (q : Nat) : Bool :=
  (s.enabled q && !s.active q && decide (s.prio q < s.execPri)) || (s.active q && s.stack.kind != .isr q)

/-- The close operation (R122). -/
def closeTransfer (d : Direction) (inst : BitVec 8) (s : State) : Outcome State Fault Refusal :=
  let k := inst.toNat
  match s.mstate with
  | .fresh =>
    if s.nSpi ≤ k then .next (s.raise .badInstance)
    else if s.unsafeClose (spiSource s.cfg k) then .next (s.raise .unsafeClose)
    else .next (s.goto (.close .cr2Read))
  | .close pos =>
    match closeStep k d pos s with
    | (some q, t) => .next (t.goto (.close q))
    | (none, t) => .next t.complete
  | _ => .fault .foreignMicroState

/-- SPI_CLOSE_TX (R122). -/
def execSpiCloseTx (inst : BitVec 8) (s : State) : Outcome State Fault Refusal := closeTransfer .tx inst s

/-- SPI_CLOSE_RX (R122). -/
def execSpiCloseRx (inst : BitVec 8) (s : State) : Outcome State Fault Refusal := closeTransfer .rx inst s

end Sys2Proof.Machine
end

