-- ==== Sys2Proof/Machine/SpiDispatch.lean ====
section
/-! DEFINITION. The SPI engine's interrupt-context handler: SPI_IRQ_HANDLE and its sub-handlers (43_spi_engine.md
R113 to R121). -/

namespace Sys2Proof.Machine

open Host (Outcome)

/-- One micro-step of TX_TICK or RX_TICK (R114, R116), with `FRAME` (R115) and `CLOSE` (R107) in line. -/
def tickStep (k : Nat) (d : Direction) (rest : List Handler) (pos : TickPos) (s : State) : State :=
  match pos with
  | .stRead =>
    if (s.tc k d).st = .busy then s.goto (.tick d rest .cr1Read) else s.raise .tickReady
  | .cr1Read =>
    readSpi k .cr1 (fun v => .tick d rest (.lenRead (frameSize s.cfg.pos v))) s
  | .lenRead f =>
    let len := (s.tc k d).len
    if len.toNat < f.bytes then s.raise .lenUnderflow else s.goto (.tick d rest (.bufRead f len))
  | .bufRead f len => s.goto (.tick d rest (.first f len (s.tc k d).buf))
  | .first f len b =>
    match d with
    | .tx =>
      if s.ramOk b f then s.goto (.tick d rest (.second f len b (s.mem.readFrame b f))) else s.stick .badAddress
    | .rx => readSpi k .dr (fun x => .tick d rest (.second f len b x)) s
  | .second f len b x =>
    match d with
    | .tx => (s.regWrite (.spi k .dr) x).goto (.tick d rest (.lenWrite f len b))
    | .rx =>
      if s.ramOk b f then (s.storeFrame b f (f.low x)).goto (.tick d rest (.lenWrite f len b))
      else s.stick .badAddress
  | .lenWrite f len b => (s.setLen k d (len - BitVec.ofNat 32 f.bytes)).goto (.tick d rest (.bufWrite f len b))
  | .bufWrite f len b =>
    let s := s.setBuf k d (b + BitVec.ofNat 32 f.bytes)
    if len - BitVec.ofNat 32 f.bytes = 0 then s.goto (.tick d rest (.closing .cr2Read)) else s.continueDispatch rest
  | .closing p =>
    match closeStep k d p s with
    | (some q, t) => t.goto (.tick d rest (.closing q))
    | (none, t) => t.notify k (completionEvent d) rest

/-- One micro-step of OVR_HANDLE (R117). -/
def drainStep (k : Nat) (rest : List Handler) (pos : OvrPos) (s : State) : State :=
  match pos with
  | .stRead => if (s.tc k .tx).st = .busy then s.notify k .ovrErr rest else s.goto (.drain rest .drRead)
  | .drRead => (s.afterRead (.spi k .dr)).goto (.drain rest .srRead)
  | .srRead => (s.afterRead (.spi k .sr)).notify k .ovrErr rest

/-- CRC_HANDLE before `<r1>` (R120): with `CRC_CLEAR` the write to `SR` is an access of its own. -/
def crcBegin (k : Nat) (rest : List Handler) (s : State) : State :=
  if s.cfg.crcClear then s.goto (.crcClear rest) else s.notify k .crcErr rest

/-- A sub-handler whose condition holds begins (R113). -/
def beginHandler (k : Nat) (h : Handler) (rest : List Handler) (s : State) : State :=
  match h with
  | .tick d => s.goto (.tick d rest .stRead)
  | .ovr => s.goto (.drain rest .stRead)
  | .crc => crcBegin k rest s

/-- `<h1>` of the next sub-handler of a dispatch, or the end of the command (R113). -/
def dispatchStep (k : Nat) (rest : List Handler) (s : State) : State :=
  match rest with
  | [] => s.complete
  | h :: l => readSpi k .sr (fun sr => .select h l sr) s

/-- SPI_IRQ_HANDLE (R113). The permutation is drawn at its first micro-step (log 4). -/
def execSpiIrqHandle (inst : BitVec 8) (s : State) : Outcome State Fault Refusal :=
  let k := inst.toNat
  match s.mstate with
  | .fresh =>
    if s.nSpi ≤ k then .next (s.raise .badInstance)
    else .next (dispatchStep k (orderHandlers s.order) s)
  | .dispatch rest => .next (dispatchStep k rest s)
  | .select h rest sr =>
    let cr2 := s.regValue (.spi k .cr2)
    if handlerRuns s.cfg.pos h sr cr2 then .next (beginHandler k h rest (s.afterRead (.spi k .cr2)))
    else .next ((s.afterRead (.spi k .cr2)).continueDispatch rest)
  | .tick d rest pos => .next (tickStep k d rest pos s)
  | .drain rest pos => .next (drainStep k rest pos s)
  | .crcClear rest =>
    .next ((s.regWrite (.spi k .sr) (~~~(oneHot s.cfg.pos.crcerr))).notify k .crcErr rest)
  | _ => .fault .foreignMicroState

end Sys2Proof.Machine
end

