-- ==== Sys2Proof/Machine/Dispatch.lean ====
section
/-! DEFINITION. One arm per command: its next micro-step (00_scope.md R11, 10_state.md R41). -/

namespace Sys2Proof.Machine

def exec (i : Instr) (s : State) : Host.Outcome State Fault Refusal :=
  match i with
  | .irqSetEnabled index enabled => Sys2Proof.Machine.execIrqSetEnabled index enabled s
  | .irqSetPriority index priority => Sys2Proof.Machine.execIrqSetPriority index priority s
  | .extiConfigure pin port trigger => Sys2Proof.Machine.execExtiConfigure pin port trigger s
  | .extiHandle pin => Sys2Proof.Machine.execExtiHandle pin s
  | .gpioConfigure pin port mode cfg => Sys2Proof.Machine.execGpioConfigure pin port mode cfg s
  | .gpioReadPin pin port => Sys2Proof.Machine.execGpioReadPin pin port s
  | .gpioWritePin pin port value => Sys2Proof.Machine.execGpioWritePin pin port value s
  | .gpioTogglePin pin port => Sys2Proof.Machine.execGpioTogglePin pin port s
  | .spiInit inst dff errie cr1cfg => Sys2Proof.Machine.execSpiInit inst dff errie cr1cfg s
  | .spiTransmit inst buf len => Sys2Proof.Machine.execSpiTransmit inst buf len s
  | .spiReceive inst buf len => Sys2Proof.Machine.execSpiReceive inst buf len s
  | .spiStartTx inst buf len => Sys2Proof.Machine.execSpiStartTx inst buf len s
  | .spiStartRx inst buf len => Sys2Proof.Machine.execSpiStartRx inst buf len s
  | .spiIrqHandle inst => Sys2Proof.Machine.execSpiIrqHandle inst s
  | .spiCloseTx inst => Sys2Proof.Machine.execSpiCloseTx inst s
  | .spiCloseRx inst => Sys2Proof.Machine.execSpiCloseRx inst s

end Sys2Proof.Machine
end

