-- ==== Sys2Proof/Machine/Schedule.lean ====
section
/-! DEFINITION. What one move does (60_exceptions.md R148), a command run without interference, and placing a program.
Step.lean puts them together. -/

namespace Sys2Proof.Machine

open Host (Outcome)

/-- The words from the top context's current command on. -/
def State.fetchWords (s : State) : List Word := s.top.cur.rest

/-- One micro-step of the top context (R41): decode its current command and take the command's next micro-step. A
stuck context and a completed FG take no step (R41, R139, log 12). -/
def runTop (s : State) : Outcome State Fault Refusal :=
  if s.top.stuck.isSome || s.top.completed then .next s
  else
    match decode s.fetchWords with
    | .ok (i, _) => exec i s
    | .error _ => .next s.refuse

/-- One step of the chosen agent (R148). -/
def applyMove (m : Move) (s : State) : Outcome State Fault Refusal :=
  match m with
  | .run o => runTop { s with order := o }
  | .pend i => .next (s.pendSource i)
  | .enter => .next s.enterChosen
  | .pinChange p n => .next (s.changePin p n)
  | .request i level => .next (s.setRequest i level)
  | .spi k e => .next (s.spiEvent k e)

/-- One step: a completed interrupt context returns before anything else (R145, R148); else the next move of the
schedule, or past its end a free one (log 2). -/
def nextStep (s : State) : Outcome State Fault Refusal :=
  if s.mustReturn then .next s.returnInterrupt
  else
    match s.sched with
    | m :: rest => applyMove m { s with sched := rest }
    | [] => applyMove (Config.freeMove s.moves) { s with moves := s.moves + 1 }

/-- `n` micro-steps of one command with no other agent stepping between them. -/
def execRun : Nat → Instr → State → Outcome State Fault Refusal
  | 0, _, s => .next s
  | n + 1, i, s =>
    match exec i s with
    | .next t => execRun n i t
    | .fault r => .fault r
    | .refused r => .refused r

/-- The top context at the start of a command list in place of its current one, running. -/
def State.placeProgram (s : State) (prog : List Word) : State :=
  s.setTop { s.top with cur := { prog := prog, pc := 0, mst := .fresh }, stuck := none }

/-- Start a run from launch inputs (70_reset_and_hazards.md R160); ill-formed ones are refused (20_memory.md R56). -/
def launch (l : Launch) : Outcome State Fault Refusal :=
  if configWf l.cfg && decide (Memory.wf l.mem) then .next (State.initial l) else .refused .illFormedLaunch

end Sys2Proof.Machine
end

