-- ==== Sys2Proof/Machine/Step.lean ====
section
/-! DEFINITION. The machine's one step, and placing an instruction where it fetches next. -/

namespace Sys2Proof.Machine

/-- One step of one agent (60_exceptions.md R148). -/
def step (s : State) : Host.Outcome State Fault Refusal := nextStep s

/-- The instruction of table bits `w` placed as the top context's command list, and the context chosen as the next
agent to move, so that the next step runs it (log 17). -/
def State.withFetchWord (s : State) (nbits w : Nat) : State :=
  { s.placeProgram (tableCommand nbits w) with sched := Move.run 0 :: s.sched }

end Sys2Proof.Machine
end

