-- ==== Sys2Proof/Safety.lean ====
section
/-! DEFINITION. What counts as a sound state and a safe run, in the terms statements use. -/

namespace Sys2Proof.Machine

open Host (Outcome)

/-! ## Positions: the micro-step position of a context belongs to its current command (10_state.md R41) -/

/-- Position `m` is one that command `i` can be at. -/
def belongs (m : MState) (i : Instr) : Bool :=
  match i with
  | .irqSetEnabled _ _ => m == .fresh
  | .irqSetPriority _ _ => match m with | .fresh | .priorityWrite _ => true | _ => false
  | .extiConfigure _ _ t => match m with | .fresh => true | .router _ => (triggerOfCode t).isSome | _ => false
  | .extiHandle _ => match m with | .fresh | .pendingClear => true | _ => false
  | .gpioConfigure _ _ c _ =>
    match m, pinModeOfCode c with
    | .fresh, _ => true
    | .router _, some (.interrupt _) => true
    | .gpio _, some _ => true
    | _, _ => false
  | .gpioReadPin _ _ => m == .fresh
  | .gpioWritePin _ _ _ => match m with | .fresh | .odrWrite _ => true | _ => false
  | .gpioTogglePin _ _ => match m with | .fresh | .odrWrite _ => true | _ => false
  | .spiInit _ _ _ _ => match m with | .fresh | .init _ => true | _ => false
  | .spiTransmit _ _ _ => match m with | .fresh | .blocking _ => true | _ => false
  | .spiReceive _ _ _ => match m with | .fresh | .blocking _ => true | _ => false
  | .spiStartTx _ _ _ => match m with | .fresh | .start _ => true | _ => false
  | .spiStartRx _ _ _ => match m with | .fresh | .start _ => true | _ => false
  | .spiIrqHandle _ =>
    match m with
    | .fresh | .dispatch _ | .select _ _ _ | .tick _ _ _ | .drain _ _ | .crcClear _ => true
    | _ => false
  | .spiCloseTx _ => match m with | .fresh | .close _ => true | _ => false
  | .spiCloseRx _ => match m with | .fresh | .close _ => true | _ => false

/-- A running command list is at a position of its current command. -/
def Frame.positioned (f : Frame) : Bool :=
  match decode f.rest with
  | .ok (i, _) => belongs f.mst i
  | .error _ => f.mst == .fresh

/-- A command list that waits for a callback is inside an SPI dispatch (R121). -/
def Frame.waiting (f : Frame) : Bool :=
  match decode f.rest, f.mst with
  | .ok (.spiIrqHandle _, _), .dispatch _ => true
  | _, _ => false

def Thread.positioned (t : Thread) : Bool := t.cur.positioned && t.outer.all Frame.waiting

/-- Every context of the stack is at a position of its current command. -/
def State.positioned (s : State) : Bool :=
  s.stack.fg.positioned && s.stack.isrs.all (fun i => i.thread.positioned)

/-! ## The controller -/

/-- Enable, pending and active bits of absent sources are 0 (R16), and the unimplemented bits of `IPR` are 0 (R18). -/
def State.controllerWf (s : State) : Prop :=
  s.nvic.en &&& presentSources s.cfg.nIrq = s.nvic.en ∧ s.nvic.pend &&& presentSources s.cfg.nIrq = s.nvic.pend
    ∧ s.nvic.act &&& presentSources s.cfg.nIrq = s.nvic.act
    ∧ ∀ r : Fin 60, s.nvic.ipr[r] &&& iprMask s.cfg.nIrq r = s.nvic.ipr[r]

/-- The sources of the interrupt contexts, innermost first. -/
def State.sources (s : State) : List Nat := s.stack.isrs.map Isr.source

/-- The active sources are exactly those with an interrupt context on the stack, one each (R144, R145). -/
def State.activeMatchesStack (s : State) : Prop :=
  s.sources.Nodup ∧ ∀ i, s.active i = decide (i ∈ s.sources)

/-- The priorities of the interrupt contexts rise strictly from the innermost out, all below `THREAD` (R147). -/
def State.nested (s : State) : Prop :=
  (s.sources.map s.prio).Pairwise (· < ·) ∧ ∀ i ∈ s.sources, s.prio i < threadPriority

/-! ## Runs -/

/-- Some number of steps leads from one state to another. -/
inductive Reaches : State → State → Prop where
  | refl (s : State) : Reaches s s
  | cons {s t u : State} (h : step s = .next t) (r : Reaches t u) : Reaches s u

/-- No fault is recorded and no word was refused. -/
def State.clean (s : State) : Prop := s.faults = [] ∧ s.refused = false

/-! ### Fair runs (60_exceptions.md R143, 92_eei_decisions.md D31) -/

/-- The step from `s` to `t` is the entry of source `i` (R143, R144). -/
def State.entersTo (s t : State) (i : Nat) : Prop :=
  s.mustReturn = false ∧ s.chosen = some i ∧ t.sources = i :: s.sources

/-- Weak fairness of entry (R143): a source that is eligible and stays so is entered eventually. -/
def EntryFair (r : Nat → State) : Prop :=
  ∀ n i : Nat, i < (r n).cfg.nIrq → (∀ m, n ≤ m → (r m).eligible i = true) → ∃ m, n ≤ m ∧ (r m).entersTo (r (m + 1)) i

/-- An execution: an endless sequence of steps that is weakly fair to entry. A liveness claim speaks of these, and adds
what the model does not guarantee (70_reset_and_hazards.md R180): that SPIDEV takes frames, that `BSY` clears, that
frames arrive. -/
structure Execution (r : Nat → State) : Prop where
  steps : ∀ n, step (r n) = .next (r (n + 1))
  fair : EntryFair r

/-! ### The end of a run (70_reset_and_hazards.md R180) -/

/-- A run has ended: FG has completed or is stuck, no interrupt context is on the stack, no source is eligible. -/
def State.ended (s : State) : Bool :=
  (s.stack.fg.completed || s.stack.fg.stuck.isSome) && s.stack.isrs.isEmpty && s.chosen.isNone

/-- The move is a step of the environment: PINS, SPIDEV, or another source's request level (60_exceptions.md R148). -/
def Move.environment : Move → Bool
  | .run _ => false
  | .pend _ => false
  | .enter => false
  | .pinChange _ _ => true
  | .request _ _ => true
  | .spi _ _ => true

/-- No enabled source requests, so the latch of 60_exceptions.md R142 can make none eligible. -/
def State.quiet (s : State) : Bool := (List.range s.cfg.nIrq).all (fun i => !(s.enabled i && s.request i))

/-- A run has ended for good: no request can arise without an environment step (log 29). The end state of a program is
read here. -/
def State.endedForGood (s : State) : Bool := s.ended && s.quiet

end Sys2Proof.Machine
end

