-- ==== Sys2Proof/Certificates/Slice0/Obligations.lean ====
section
/-! DEFINITION. The statements for the provers. Each docstring names the rules of spec/ it rests on. -/

open Sys2Proof Sys2Proof.Machine
open Host (Outcome)

/-! ## What the statements compute with -/

namespace Sys2Proof.Machine

/-- The first range check of 30_encoding.md R79 that a command's fields fail, in the order of its rule's pseudocode
(60_exceptions.md R138). -/
def rangeFault (s : State) (i : Instr) : Option FaultCode :=
  let irq (x : BitVec 8) (k : Option FaultCode) := if s.cfg.nIrq ≤ x.toNat then some .badIrq else k
  let pin (x : BitVec 8) (k : Option FaultCode) := if 15 < x.toNat then some .badPin else k
  let port (x : BitVec 8) (k : Option FaultCode) := if 8 < x.toNat then some .badPort else k
  let inst (x : BitVec 8) := if s.nSpi ≤ x.toNat then some FaultCode.badInstance else none
  match i with
  | .irqSetEnabled x _ => irq x none
  | .irqSetPriority x p => irq x (if 16 ≤ p.toNat then some .badPrio else none)
  | .extiConfigure n p t => pin n (port p (if 2 < t.toNat then some .badTrigger else none))
  | .extiHandle n => pin n none
  | .gpioConfigure n p c _ => pin n (port p (if 6 < c.toNat then some .badMode else none))
  | .gpioReadPin n p => pin n (port p none)
  | .gpioWritePin n p _ => pin n (port p none)
  | .gpioTogglePin n p => pin n (port p none)
  | .spiInit k _ _ _ => inst k
  | .spiTransmit k _ _ => inst k
  | .spiReceive k _ _ => inst k
  | .spiStartTx k _ _ => inst k
  | .spiStartRx k _ _ => inst k
  | .spiIrqHandle k => inst k
  | .spiCloseTx k => inst k
  | .spiCloseRx k => inst k

/-- The SPI instance a command names. -/
def commandInstance : Instr → Option Nat
  | .irqSetEnabled _ _ | .irqSetPriority _ _ | .extiConfigure _ _ _ | .extiHandle _ | .gpioConfigure _ _ _ _
  | .gpioReadPin _ _ | .gpioWritePin _ _ _ | .gpioTogglePin _ _ => none
  | .spiInit k _ _ _ | .spiTransmit k _ _ | .spiReceive k _ _ | .spiStartTx k _ _ | .spiStartRx k _ _
  | .spiIrqHandle k | .spiCloseTx k | .spiCloseRx k => some k.toNat

/-- The GPIO port whose registers a command writes. -/
def commandPort : Instr → Option Nat
  | .gpioConfigure _ p _ _ | .gpioWritePin _ p _ | .gpioTogglePin _ p => some p.toNat
  | .irqSetEnabled _ _ | .irqSetPriority _ _ | .extiConfigure _ _ _ | .extiHandle _ | .gpioReadPin _ _
  | .spiInit _ _ _ _ | .spiTransmit _ _ _ | .spiReceive _ _ _ | .spiStartTx _ _ _ | .spiStartRx _ _ _
  | .spiIrqHandle _ | .spiCloseTx _ | .spiCloseRx _ => none

/-- The commands that write the interrupt controller (40_nvic.md). -/
def setsController : Instr → Bool
  | .irqSetEnabled _ _ | .irqSetPriority _ _ => true
  | .extiConfigure _ _ _ | .extiHandle _ | .gpioConfigure _ _ _ _ | .gpioReadPin _ _ | .gpioWritePin _ _ _
  | .gpioTogglePin _ _ | .spiInit _ _ _ _ | .spiTransmit _ _ _ | .spiReceive _ _ _ | .spiStartTx _ _ _
  | .spiStartRx _ _ _ | .spiIrqHandle _ | .spiCloseTx _ | .spiCloseRx _ => false

/-- The commands that run the Router (41_exti_router.md R92, 42_gpio_port.md R102). -/
def routesLines : Instr → Bool
  | .extiConfigure _ _ _ | .gpioConfigure _ _ _ _ => true
  | .irqSetEnabled _ _ | .irqSetPriority _ _ | .extiHandle _ | .gpioReadPin _ _ | .gpioWritePin _ _ _
  | .gpioTogglePin _ _ | .spiInit _ _ _ _ | .spiTransmit _ _ _ | .spiReceive _ _ _ | .spiStartTx _ _ _
  | .spiStartRx _ _ _ | .spiIrqHandle _ | .spiCloseTx _ | .spiCloseRx _ => false

/-- SPI_TRANSMIT or SPI_RECEIVE, by direction. -/
def blockingCommand (d : Direction) (k : BitVec 8) (buf len : Word) : Instr :=
  match d with
  | .tx => .spiTransmit k buf len
  | .rx => .spiReceive k buf len

/-- SPI_START_TX or SPI_START_RX, by direction. -/
def startCommand (d : Direction) (k : BitVec 8) (buf len : Word) : Instr :=
  match d with
  | .tx => .spiStartTx k buf len
  | .rx => .spiStartRx k buf len

/-- SPI_CLOSE_TX or SPI_CLOSE_RX, by direction. -/
def closeCommand (d : Direction) (k : BitVec 8) : Instr :=
  match d with
  | .tx => .spiCloseTx k
  | .rx => .spiCloseRx k

/-- The frame a micro-step stores to memory at position `m`, with the address it is stored at: a received frame of
SPI_RECEIVE (R110 `<m>`) or of RX_TICK (R116 `<y5>`). -/
def storedFrame (i : Instr) (m : MState) : Option (Word × FrameSize × Word) :=
  match i, m with
  | .spiReceive _ _ _, .blocking (.second b _ f x) => some (b, f, f.low x)
  | .spiIrqHandle _, .tick .rx _ (.second f _ b x) => some (b, f, f.low x)
  | _, _ => none

/-- What the Router leaves behind (R93 to R95). -/
def routed (s : State) (n p : Nat) (t : Trigger) : State :=
  { s with
    exti := { s.exti with
      rtsr := putBit s.exti.rtsr n (t != .falling), ftsr := putBit s.exti.ftsr n (t != .rising),
      imr := putBit s.exti.imr n true },
    exticr := s.exticr.setIfInBounds (n / 4)
      (match s.cfg.exticrMode with
        | .merge => insertField (s.exticr[n / 4]?.getD 0) 0xF (BitVec.ofNat 32 p) (4 * (n % 4))
        | .whole => BitVec.ofNat 32 p <<< (4 * (n % 4))) }

/-- The Router's accesses (R93 to R95). -/
def routerAccesses (s : State) : Nat :=
  match s.cfg.exticrMode with
  | .merge => 8
  | .whole => 7

/-- The speed, pull and type fields GPIO_CONFIGURE writes in every mode (R102 `<s1>` to `<s6>`). -/
def plainFields (x : Port) (n : Nat) (cfg : Word) : Port :=
  { x with
    ospeedr := insertField x.ospeedr 0x3 (cfg &&& 0x3) (2 * n),
    pupdr := insertField x.pupdr 0x3 ((cfg >>> 2) &&& 0x3) (2 * n),
    otyper := insertField x.otyper 0x1 ((cfg >>> 4) &&& 0x1) n }

/-- The alternate-function field of pin `n` (R102 `<s7>`, `<s8>`). -/
def alternateField (x : Port) (n : Nat) (cfg : Word) : Port :=
  if n < 8 then { x with afr0 := insertField x.afr0 0xF ((cfg >>> 8) &&& 0xF) (4 * n) }
  else { x with afr1 := insertField x.afr1 0xF ((cfg >>> 8) &&& 0xF) (4 * (n - 8)) }

/-- IRQ_SET_PRIORITY run for each priority of a list in turn, each from its first micro-step and without interference
(R90). -/
def setPriorities (i : BitVec 8) : List (BitVec 8) → State → Option State
  | [], s => some s
  | p :: ps, s =>
    match execRun 2 (.irqSetPriority i p) (s.goto .fresh) with
    | .next t => setPriorities i ps t
    | _ => none

/-- The frame a tick moves (R114 `<x4>`, `<x5>`; R116 `<y4>`, `<y5>`). -/
def frameMoved (s : State) (k : Nat) (d : Direction) (b : Word) (f : FrameSize) : State :=
  match d with
  | .tx => s.regWrite (.spi k .dr) (s.mem.readFrame b f)
  | .rx => (s.afterRead (.spi k .dr)).storeFrame b f (f.low ((s.inst k).rxbuf.setWidth 32))

/-- What `CLOSE(k, d)` leaves behind (R107). -/
def closed (s : State) (k : Nat) (d : Direction) : State :=
  s.mapInst k (fun x =>
    { x.setTc d TransferCtx.cleared with cr2 := putBit x.cr2 (enablePos s.cfg.pos d) false })

/-- One tick without interference: eight micro-steps, and `CLOSE`'s five more when it moves the last frame (R114, R116,
R107). -/
def runTick (k : BitVec 8) (d : Direction) (s : State) : Option State :=
  let last := (s.tc k.toNat d).len.toNat = (s.frameSizeOf k.toNat).bytes
  match execRun (if last then 13 else 8) (.spiIrqHandle k) (s.goto (.tick d [] .stRead)) with
  | .next t => some t
  | _ => none

/-- `n` ticks of one direction. -/
def ticks (k : BitVec 8) (d : Direction) : Nat → State → Option State
  | 0, s => some s
  | n + 1, s =>
    match runTick k d s with
    | some t => ticks k d n t
    | none => none

/-- `n` frames of a blocking transmit, SPIDEV taking each frame right after its `DR` write (R109, R130). -/
def sendFrames (k : BitVec 8) (buf len : Word) : Nat → State → Option State
  | 0, s => some s
  | n + 1, s =>
    match execRun 4 (.spiTransmit k buf len) s with
    | .next t => sendFrames k buf len n (t.spiEvent k.toNat .takeFrame)
    | _ => none

end Sys2Proof.Machine

/-! ## Encoding -/

/-- 30_encoding.md R72, R73, R74, R78: decoding the words of a well-formed command gives it back and leaves the words
after it. Every command, every operand value. -/
def Obligations.DecodeOfEncode : Prop :=
  ∀ (i : Instr) (ws : List Word), i.wellFormed = true → decode (encode i ++ ws) = .ok (i, ws)

/-- 30_encoding.md R72, R73, R74, R78: a command that decodes is well-formed, and the words it was read from are its
encoding: each spelling has one meaning and no bit of it is dropped. -/
def Obligations.EncodeOfDecode : Prop :=
  ∀ (ws rest : List Word) (i : Instr), decode ws = .ok (i, rest) → i.wellFormed = true ∧ ws = encode i ++ rest

/-- 30_encoding.md R72, R73, R74, R78: words of the spec's test vectors (95_test_vectors.md E5, Q1, L1.2, X13, G2, G10,
G12, G15, S1, S20, S25, S5, S16, S18, E10, G7, D7), each decoding to the command it stands for, or refused. -/
def Obligations.SampleWordsDecode : Prop :=
  decode [0x00002301] = .ok (.irqSetEnabled 35 false, [])
    ∧ decode [0x000F0002] = .ok (.irqSetPriority 0 15, [])
    ∧ decode [0x00010710] = .ok (.extiConfigure 7 1 0, [])
    ∧ decode [0x00000511] = .ok (.extiHandle 5, [])
    ∧ decode [0x01030320, 0x00000016] = .ok (.gpioConfigure 3 3 1 0x16, [])
    ∧ decode [0x00020521] = .ok (.gpioReadPin 5 2, [])
    ∧ decode [0x01000422] = .ok (.gpioWritePin 4 0 true, [])
    ∧ decode [0x00000023] = .ok (.gpioTogglePin 0 0, [])
    ∧ decode [0x00030030, 0x00000000] = .ok (.spiInit 0 true true 0, [])
    ∧ decode [0x00000031, 0x20000000, 1] = .ok (.spiTransmit 0 0x20000000 1, [])
    ∧ decode [0x00000033, 0x20000040, 8] = .ok (.spiStartTx 0 0x20000040 8, [])
    ∧ decode [0x00000135] = .ok (.spiIrqHandle 1, [])
    ∧ decode [0x00000036] = .ok (.spiCloseTx 0, [])
    ∧ decode [0x00000037] = .ok (.spiCloseRx 0, [])
    ∧ decode [0x00022301] = .error .reservedBits
    ∧ decode [0x01030320, 0x00000020] = .error .reservedCfg
    ∧ decode [0x00000033, 0x20000000] = .error .missingOperand

/-! ## The step -/

/-- 10_state.md R41, 60_exceptions.md R148, 43_spi_engine.md R121: when the schedule runs the top context, no return is
due, the context is not stuck, and the words at its current command decode to `i`, the step is `exec i` at the state that
has drawn the move (its schedule shortened, its dispatch order the move's: the model's own choice fields, logs 2
and 4). A command that completes moves its context to `pc + 1` with a fresh `mstate`; where that runs out a list that a
NOTIFY spliced in, the context goes back to the list beneath (log 10), whose dispatch goes on with the sub-handlers it
has left, and completes its own command when none is left. -/
def Obligations.StepRunsDecodedCommand : Prop :=
  (∀ (s : State) (o : Order) (rest : List Move) (i : Instr) (ws : List Word),
    s.mustReturn = false → s.sched = .run o :: rest → s.top.stuck = none → decode s.fetchWords = .ok (i, ws) →
      step s = exec i { s with sched := rest, order := o })
    ∧ ∀ s : State,
      let t := s.top
      let after : Frame := { t.cur with pc := t.cur.pc + 1, mst := .fresh }
      ((t.outer = [] ∨ skipCommands (t.cur.pc + 1) t.cur.prog ≠ []) → s.complete = s.setTop { t with cur := after })
        ∧ ∀ (f : Frame) (fs : List Frame), t.outer = f :: fs → skipCommands (t.cur.pc + 1) t.cur.prog = [] →
          (∀ h l, f.mst = .dispatch (h :: l) → s.complete = s.setTop { t with cur := f, outer := fs })
            ∧ (f.mst = .dispatch [] → s.complete = (s.setTop { t with cur := f, outer := fs }).complete)

/-- 30_encoding.md R78: a command word that does not decode sets REFUSED and leaves its context stuck; nothing else
changes but the model's own choice fields (logs 2 and 14). -/
def Obligations.StepRefusesUndecodableWord : Prop :=
  ∀ (s : State) (o : Order) (rest : List Move) (e : DecodeRefusal),
    s.mustReturn = false → s.sched = .run o :: rest → s.top.stuck = none → s.top.completed = false →
    decode s.fetchWords = .error e →
      step s = .next (State.setTop { s with sched := rest, order := o, refused := true }
        { s.top with stuck := some .refused })

/-- 60_exceptions.md R139, R148 and 00_scope.md R12 (a fault or a refusal stops one context, never the machine): from
every state whose contexts stand at positions of their commands (log 13), every step answers a next state, and that state is
positioned again. -/
def Obligations.StepAlwaysAnswersNext : Prop :=
  ∀ s : State, s.positioned = true → ∃ t, step s = .next t ∧ t.positioned = true

/-- 70_reset_and_hazards.md R158, R159: the state a run starts from meets every invariant, whatever the launch. -/
def Obligations.LaunchStateIsSound : Prop :=
  ∀ l : Launch, (State.initial l).positioned = true ∧ (State.initial l).controllerWf
    ∧ (State.initial l).activeMatchesStack ∧ (State.initial l).nested
    ∧ (Memory.wf l.mem → (State.initial l).mem.wf)

/-- 20_memory.md R53, R55: buffer memory keeps its canonical form (addresses rising and inside the address space, no
entry equal to what an unlisted address reads as, log 8) in every step. -/
def Obligations.MemoryStaysCanonical : Prop :=
  ∀ s t : State, s.mem.wf → step s = .next t → t.mem.wf

/-- 10_state.md R16, R17, R18: bits of absent sources and unimplemented priority bits stay 0 in every step. -/
def Obligations.ControllerStaysWellFormed : Prop :=
  ∀ s t : State, s.controllerWf → step s = .next t → t.controllerWf

/-- 60_exceptions.md R144, R145, R147: in every step the active sources stay exactly those with an interrupt context on
the stack, one context each. -/
def Obligations.ActiveSourcesMatchStack : Prop :=
  ∀ s t : State, s.activeMatchesStack → step s = .next t → t.activeMatchesStack

/-- 00_scope.md R6, 20_memory.md R61: no step changes the parameters of the run or the number of SPI instances. -/
def Obligations.ParametersNeverChange : Prop :=
  ∀ s t : State, step s = .next t → t.cfg = s.cfg ∧ t.nSpi = s.nSpi

/-- 10_state.md R38, R43, R44: LOG, RES and every TXOUT only grow at their end, FAULT only gains members, REFUSED is
never cleared. -/
def Obligations.RecordsOnlyGrow : Prop :=
  ∀ s t : State, step s = .next t →
    s.log <+: t.log ∧ s.res <+: t.res ∧ s.faults ⊆ t.faults ∧ (s.refused = true → t.refused = true)
      ∧ ∀ k, (s.inst k).txout <+: (t.inst k).txout

/-- 10_state.md R15: a step that changes an enable bit is a micro-step of IRQ_SET_ENABLED. -/
def Obligations.OnlySetEnabledChangesEnables : Prop :=
  ∀ s t : State, step s = .next t → t.nvic.en ≠ s.nvic.en →
    ∃ x e ws, decode s.fetchWords = .ok (.irqSetEnabled x e, ws)

/-- 10_state.md R20, R41; 60_exceptions.md R150: no command changes a pending or active bit, the request input of a
source that belongs to no line and no instance (log 19), the parameters, which interrupt contexts are on the stack, or
any context beneath the running one, FG among them. -/
def Obligations.CommandsLeaveDeliveryStateAlone : Prop :=
  ∀ (i : Instr) (s t : State), exec i s = .next t →
    t.nvic.pend = s.nvic.pend ∧ t.nvic.act = s.nvic.act ∧ t.sources = s.sources ∧ t.extReq = s.extReq
      ∧ t.cfg = s.cfg ∧ t.stack.isrs.tail = s.stack.isrs.tail
      ∧ (s.stack.isrs ≠ [] → t.stack.fg = s.stack.fg)

/-- 60_exceptions.md R143, R145, R150: interrupt contexts come and go only by an entry of the chosen source and by the
return of a completed one. -/
def Obligations.ContextsChangeOnlyByEntryAndReturn : Prop :=
  ∀ s t : State, step s = .next t →
    t.sources = s.sources ∨ (∃ i, s.chosen = some i ∧ t.sources = i :: s.sources)
      ∨ (s.mustReturn = true ∧ ∃ i, s.sources = i :: t.sources)

/-- 40_nvic.md R86: a source that is not enabled is not entered by the next step. -/
def Obligations.DisabledSourceIsNotEntered : Prop :=
  ∀ (s t : State) (i : Nat), s.enabled i = false → step s = .next t → i ∈ t.sources → i ∈ s.sources

/-- 00_scope.md R12, 60_exceptions.md R139: a stuck context makes no further step and never leaves the stack. -/
def Obligations.StuckContextsStayAsTheyAre : Prop :=
  ∀ s t : State, step s = .next t →
    (s.stack.fg.stuck.isSome = true → t.stack.fg = s.stack.fg)
      ∧ ∀ x ∈ s.stack.isrs, x.thread.stuck.isSome = true → x ∈ t.stack.isrs

/-- 60_exceptions.md R143, R144, R147: while the priorities of the interrupt contexts rise strictly outwards, an entry
keeps them so, and there are at most `2^PRIO_BITS` interrupt contexts. (The bound needs the priorities of active sources
to stay put: log 16.) -/
def Obligations.EntryKeepsNesting : Prop :=
  ∀ (s : State) (i : Nat), s.controllerWf → s.activeMatchesStack → s.nested → s.chosen = some i →
    (s.takeInterrupt i).nested ∧ (s.takeInterrupt i).stack.isrs.length ≤ 2 ^ prioBits

/-! ## Memory -/

/-- 20_memory.md R54, R55: a frame written reads back as its own bits, its low byte at its address and, for a 16-bit
frame, its high byte at the next. -/
def Obligations.FrameReadsBack : Prop :=
  ∀ (m : Memory) (a : Word) (f : FrameSize) (v : Word), m.wf →
    (m.writeFrame a f v).readFrame a f = f.low v
      ∧ (m.writeFrame a f v).byte a.toNat = v.extractLsb' 0 8
      ∧ (f = .two → (m.writeFrame a f v).byte (a + 1).toNat = v.extractLsb' 8 8)

/-- 20_memory.md R47, R48, R56, R57: with well-formed addresses, the address of a register names that register and no
other, is word-aligned, and lies in no RAM range; and a launch with a base that is not word-aligned is refused. -/
def Obligations.AddressesNameTheirRegisters : Prop :=
  (∀ (c : Config) (r : Reg), addrWf c = true → r ∈ allRegs c.nIrq c.spiIrq.length →
    regAt c (regAddr c.addr r) = some r ∧ inRam c.ram (regAddr c.addr r) = false
      ∧ (regAddr c.addr r).toNat % 4 = 0)
    ∧ ∀ (l : Launch) (b : Word), b ∈ addrBases l.cfg.addr → b.toNat % 4 ≠ 0 → launch l = .refused .illFormedLaunch

/-- 20_memory.md R53, R54; 43_spi_engine.md R110, R116: a micro-step that stores a received frame stores it at the
position's own address and changes no other byte; every other micro-step of every command leaves memory alone. -/
def Obligations.CommandsStoreOnlyReceivedFrames : Prop :=
  ∀ (i : Instr) (s t : State), s.mem.wf → exec i s = .next t →
    match storedFrame i s.mstate with
    | none => t.mem = s.mem
    | some (b, f, v) =>
      (∀ a, (∀ x ∈ frameAddrs b f, x.toNat ≠ a) → t.mem.byte a = s.mem.byte a)
        ∧ (s.ramOk b f = true → t.mem.readFrame b f = v) ∧ (s.ramOk b f = false → t.mem = s.mem)

/-- 10_state.md R15, R39; 43_spi_engine.md R107, 42_gpio_port.md R102 to R105, 41_exti_router.md R96, R97: an SPI
command changes no other instance's record and a GPIO command no other port's registers, every other command none of
either; enables and priorities change only by the controller's two commands, lines and selectors only by the commands
that configure or handle a line, pending bits of lines only by EXTI_HANDLE; and no command drives a pin. -/
def Obligations.CommandsTouchOnlyTheirUnit : Prop :=
  ∀ (i : Instr) (s t : State), exec i s = .next t →
    (∀ j, commandInstance i ≠ some j → t.inst j = s.inst j)
      ∧ (∀ q, commandPort i ≠ some q → t.port q = s.port q)
      ∧ (∀ q, (t.port q).pin = (s.port q).pin)
      ∧ (setsController i = false → t.nvic = s.nvic)
      ∧ (routesLines i = false → t.exticr = s.exticr ∧ t.exti = { s.exti with pr := t.exti.pr })
      ∧ ((∀ n, i ≠ .extiHandle n) → t.exti.pr = s.exti.pr)

/-- 43_spi_engine.md R123: a step that changes a transfer context is a micro-step of that instance's start, dispatch or
close. -/
def Obligations.OnlyEngineWritesTransferContexts : Prop :=
  ∀ (s t : State) (k : Nat) (d : Direction), step s = .next t → t.tc k d ≠ s.tc k d →
    ∃ (i : Instr) (ws : List Word) (x : BitVec 8), decode s.fetchWords = .ok (i, ws) ∧ x.toNat = k
      ∧ ((∃ buf len, i = startCommand d x buf len) ∨ i = .spiIrqHandle x ∨ i = closeCommand d x)

/-! ## Faults -/

/-- 30_encoding.md R79, 60_exceptions.md R138: at its first micro-step, a command with a field out of range raises the
fault of the first check it fails, before any access. Every command. -/
def Obligations.RangeFaultsBeforeAnyAccess : Prop :=
  ∀ (i : Instr) (s : State) (c : FaultCode), s.mstate = .fresh → rangeFault s i = some c →
    exec i s = .next (s.raise c)

/-- 60_exceptions.md R137: raising a fault adds its record to FAULT, leaves the running context stuck where it is (`pc` as
log 10 says), and
changes no register, no memory and no other record. -/
def Obligations.RaiseRecordsAndSticks : Prop :=
  ∀ (s : State) (c : FaultCode),
    s.raise c = State.setTop { s with faults := s.faults.insert ⟨c, s.stack.kind, s.top.cur.pc⟩ }
        { s.top with stuck := some (.faulted c) }
      ∧ ⟨c, s.stack.kind, s.top.cur.pc⟩ ∈ (s.raise c).faults
      ∧ ∀ r ∈ (s.raise c).faults, r ∈ s.faults ∨ r = ⟨c, s.stack.kind, s.top.cur.pc⟩

/-- 43_spi_engine.md R125: mixed-mode misuse is a fault in the three cases of the rule. -/
def Obligations.MixedModeFaults : Prop :=
  ∀ (s : State) (k : BitVec 8) (buf len : Word), s.mstate = .fresh → k.toNat < s.nSpi →
    ((((s.tc k.toNat .tx).st = .busy ∨ (s.tc k.toNat .rx).st = .busy ∨ (s.inst k.toNat).blk = true) →
        (∀ d, exec (blockingCommand d k buf len) s = .next (s.raise .mixedMode))
          ∧ ∀ dff errie cr1, exec (.spiInit k dff errie cr1) s = .next (s.raise .initBusy))
      ∧ ((s.inst k.toNat).blk = true → ∀ d, exec (startCommand d k buf len) s = .next (s.raise .mixedMode)))

/-! ## Interrupt controller -/

/-- 40_nvic.md R84: IRQ_SET_ENABLED completes in one micro-step that makes `EN[i]` the operand and changes nothing else
but the context's position. -/
def Obligations.IrqSetEnabledResult : Prop :=
  ∀ (i : BitVec 8) (e : Bool) (s : State), s.mstate = .fresh → i.toNat < s.cfg.nIrq →
    ∃ en, exec (.irqSetEnabled i e) s = .next { s.complete with nvic := { s.nvic with en := en } }
      ∧ ∀ j, en.getLsbD j = if j = i.toNat then e else s.nvic.en.getLsbD j

/-- 40_nvic.md R88: enabling and then disabling a source, with no other agent writing EN in between, leaves it
disabled and every other source as it was; the same of its bank read through ISER or ICER. -/
def Obligations.EnableDisableRoundTrip : Prop :=
  ∀ (i : BitVec 8) (s t t' u : State), s.mstate = .fresh → i.toNat < s.cfg.nIrq →
    exec (.irqSetEnabled i true) s = .next t →
    t'.nvic.en = t.nvic.en → t'.cfg = s.cfg → t'.mstate = .fresh →
    exec (.irqSetEnabled i false) t' = .next u →
      (∀ j, u.enabled j = if j = i.toNat then false else s.enabled j)
        ∧ ∀ j < 32, (u.regValue (.iser (i.toNat / 32))).getLsbD j
              = (if j = i.toNat % 32 then false else (s.regValue (.iser (i.toNat / 32))).getLsbD j)
            ∧ (u.regValue (.icer (i.toNat / 32))).getLsbD j
              = (if j = i.toNat % 32 then false else (s.regValue (.icer (i.toNat / 32))).getLsbD j)

/-- 40_nvic.md R85: IRQ_SET_PRIORITY reads the source's priority register, then writes the OR of that value and the
shifted priority (whatever another context wrote in between), and completes; nothing else changes. -/
def Obligations.IrqSetPriorityResult : Prop :=
  ∀ (i p : BitVec 8) (s : State), i.toNat < s.cfg.nIrq → p.toNat < 16 →
    (s.mstate = .fresh →
        exec (.irqSetPriority i p) s = .next (s.goto (.priorityWrite (s.regValue (.ipr (i.toNat / 4))))))
      ∧ ∀ v, s.mstate = .priorityWrite v →
        exec (.irqSetPriority i p) s = .next { s.complete with nvic := { s.nvic with
          ipr := s.nvic.ipr.setIfInBounds (i.toNat / 4)
            ((v ||| (p.setWidth 32 <<< (8 * (i.toNat % 4) + 4))) &&& iprMask s.cfg.nIrq (i.toNat / 4)) } }

/-- 40_nvic.md R89: the priority read-back law, with other agents free to step between the two accesses as long as
they do not write the register; with a zero field before the call the field is the priority. -/
def Obligations.PriorityReadsBack : Prop :=
  ∀ (i p : BitVec 8) (s t t' u : State), s.controllerWf → s.mstate = .fresh → i.toNat < s.cfg.nIrq → p.toNat < 16 →
    exec (.irqSetPriority i p) s = .next t →
    t'.nvic.ipr[i.toNat / 4]? = t.nvic.ipr[i.toNat / 4]? → t'.cfg = s.cfg → t'.mstate = t.mstate →
    exec (.irqSetPriority i p) t' = .next u →
      let old := s.nvic.ipr[i.toNat / 4]?.getD 0
      let new := u.nvic.ipr[i.toNat / 4]?.getD 0
      let fmask : Word := 0xF <<< (8 * (i.toNat % 4) + 4)
      let val : Word := p.setWidth 32 <<< (8 * (i.toNat % 4) + 4)
      (old &&& fmask = 0 → new &&& fmask = val)
        ∧ new &&& fmask = (old &&& fmask) ||| val ∧ new &&& ~~~fmask = old &&& ~~~fmask

/-- 40_nvic.md R90: calls that run back to back without interference (no other agent steps between their accesses)
accumulate: a source's priority becomes the OR of its old value and of every requested one, so it never
decreases; no other source's priority changes. -/
def Obligations.PrioritiesAccumulate : Prop :=
  ∀ (i : BitVec 8) (ps : List (BitVec 8)) (s : State), s.controllerWf → i.toNat < s.cfg.nIrq →
    (∀ p ∈ ps, p.toNat < 16) →
      ∃ t, setPriorities i ps s = some t
        ∧ t.prio i.toNat = ps.foldl (fun a p => a ||| p.toNat) (s.prio i.toNat) ∧ s.prio i.toNat ≤ t.prio i.toNat
        ∧ ∀ j, j ≠ i.toNat → t.prio j = s.prio j

/-! ## Router -/

/-- 41_exti_router.md R92 to R95: EXTI_CONFIGURE without interference completes after its 8 accesses (7 when the
selector is stored whole), leaving the trigger bits, the selector nibble and the mask bit as `routed` says, and nothing
else changed. -/
def Obligations.ExtiConfigureResult : Prop :=
  ∀ (n p c : BitVec 8) (t : Trigger) (s : State), s.mstate = .fresh → n.toNat ≤ 15 → p.toNat ≤ 8 →
    c = (match t with | .falling => 0 | .rising => 1 | .both => 2) →
      (∃ u, exec (.extiConfigure n p c) s = .next u)
        ∧ execRun (routerAccesses s) (.extiConfigure n p c) s = .next (routed s n.toNat p.toNat t).complete

/-- 41_exti_router.md R98: after a Router that runs without interference (no other agent steps between its accesses),
the line has exactly the trigger bits asked
for, its port selected and its mask bit set; other lines keep their bits, and their selectors too when the selector is
merged, while a whole store selects port A for the other lines of the register. -/
def Obligations.TriggerExclusivity : Prop :=
  ∀ (n p c : BitVec 8) (s u : State), s.mstate = .fresh → n.toNat ≤ 15 → p.toNat ≤ 8 → c.toNat ≤ 2 →
    execRun (routerAccesses s) (.extiConfigure n p c) s = .next u →
      (c = 1 → u.exti.rtsr.getLsbD n.toNat = true ∧ u.exti.ftsr.getLsbD n.toNat = false)
        ∧ (c = 0 → u.exti.ftsr.getLsbD n.toNat = true ∧ u.exti.rtsr.getLsbD n.toNat = false)
        ∧ (c = 2 → u.exti.rtsr.getLsbD n.toNat = true ∧ u.exti.ftsr.getLsbD n.toNat = true)
        ∧ u.selected n.toNat = p.toNat ∧ u.exti.imr.getLsbD n.toNat = true
        ∧ (∀ l, l ≠ n.toNat → u.exti.rtsr.getLsbD l = s.exti.rtsr.getLsbD l
            ∧ u.exti.ftsr.getLsbD l = s.exti.ftsr.getLsbD l ∧ u.exti.imr.getLsbD l = s.exti.imr.getLsbD l)
        ∧ ∀ l ≤ 15, l ≠ n.toNat → u.selected l
            = if s.cfg.exticrMode = .whole ∧ l / 4 = n.toNat / 4 then 0 else s.selected l

/-- 41_exti_router.md R97: EXTI_HANDLE reads PR; a line not pending ends it there, a pending one is cleared by a write
that clears that line's bit alone, as PR stands at the write. -/
def Obligations.ExtiHandleResult : Prop :=
  ∀ (n : BitVec 8) (s : State), n.toNat ≤ 15 →
    (s.mstate = .fresh → s.exti.pr.getLsbD n.toNat = false → exec (.extiHandle n) s = .next s.complete)
      ∧ (s.mstate = .fresh → s.exti.pr.getLsbD n.toNat = true → exec (.extiHandle n) s = .next (s.goto .pendingClear))
      ∧ (s.mstate = .pendingClear → exec (.extiHandle n) s
          = .next { s.complete with exti := { s.exti with pr := putBit s.exti.pr n.toNat false } })

/-! ## Ports -/

/-- 42_gpio_port.md R102: GPIO_CONFIGURE in a plain mode, without interference, completes after 8 accesses (10 in mode
AF), with the pin's MODER, OSPEEDR, PUPDR and OTYPER fields, and in mode AF its AFR field, as the operands say, and
nothing else changed. -/
def Obligations.GpioConfigurePlainResult : Prop :=
  ∀ (n p c : BitVec 8) (cfg : Word) (s : State), s.mstate = .fresh → n.toNat ≤ 15 → p.toNat ≤ 8 → c.toNat ≤ 3 →
    let m := s.cfg.modeCode
    let code : BitVec 2 := if c = 0 then m.input else if c = 1 then m.output else if c = 2 then m.alternate else m.analog
    let x := plainFields (s.port p.toNat) n.toNat cfg
    let y := { x with moder := insertField x.moder 0x3 (code.setWidth 32) (2 * n.toNat) }
    let z := if c = 2 then alternateField y n.toNat cfg else y
    (∃ u, exec (.gpioConfigure n p c cfg) s = .next u)
      ∧ execRun (if c = 2 then 10 else 8) (.gpioConfigure n p c cfg) s = .next (s.setPort p.toNat z).complete

/-- 42_gpio_port.md R102, 70_reset_and_hazards.md R175: GPIO_CONFIGURE in an interrupt mode, without interference, runs
the Router and then writes the speed, pull and type fields; MODER and AFR keep their values. -/
def Obligations.GpioConfigureInterruptResult : Prop :=
  ∀ (n p c : BitVec 8) (t : Trigger) (cfg : Word) (s : State), s.mstate = .fresh → n.toNat ≤ 15 → p.toNat ≤ 8 →
    c = (match t with | .falling => 4 | .rising => 5 | .both => 6) →
      (∃ u, exec (.gpioConfigure n p c cfg) s = .next u)
        ∧ execRun (routerAccesses s + 6) (.gpioConfigure n p c cfg) s
          = .next ((routed s n.toNat p.toNat t).setPort p.toNat (plainFields (s.port p.toNat) n.toNat cfg)).complete

/-- 42_gpio_port.md R103; 10_state.md R43: GPIO_READ_PIN completes in one micro-step, appends the pin's level to RES with
its context and command index, and changes nothing else. (Inside a callback the index counts the callback's own list:
the model's choice, log 10.) -/
def Obligations.GpioReadPinResult : Prop :=
  ∀ (n p : BitVec 8) (s : State), s.mstate = .fresh → n.toNat ≤ 15 → p.toNat ≤ 8 →
    exec (.gpioReadPin n p) s = .next { s.complete with
      res := s.res ++ [⟨s.stack.kind, s.top.cur.pc, .level ((s.port p.toNat).pin.getLsbD n.toNat)⟩] }

/-- 42_gpio_port.md R104, R105; 20_memory.md R49: GPIO_WRITE_PIN and GPIO_TOGGLE_PIN read ODR, then write the value
computed from what was read (a change in between is lost, 70_reset_and_hazards.md R169), and complete; nothing else
changes. -/
def Obligations.OdrUpdateResult : Prop :=
  ∀ (n p : BitVec 8) (b : Bool) (s : State), n.toNat ≤ 15 → p.toNat ≤ 8 →
    (s.mstate = .fresh →
        exec (.gpioWritePin n p b) s = .next (s.goto (.odrWrite (s.port p.toNat).odr))
          ∧ exec (.gpioTogglePin n p) s = .next (s.goto (.odrWrite (s.port p.toNat).odr)))
      ∧ ∀ v, s.mstate = .odrWrite v →
        exec (.gpioWritePin n p b) s
            = .next (s.setPort p.toNat { s.port p.toNat with
                odr := if b then v ||| (1#32 <<< n.toNat) else v &&& ~~~(1#32 <<< n.toNat) }).complete
          ∧ exec (.gpioTogglePin n p) s
            = .next (s.setPort p.toNat { s.port p.toNat with odr := v ^^^ (1#32 <<< n.toNat) }).complete

/-! ## SPI: foreground operations -/

/-- 43_spi_engine.md R108: SPI_INIT on an idle instance, without interference, completes in three micro-steps with CR1
the operand word (DFF replaced) and CR2 only ERRIE, and nothing else changed. -/
def Obligations.SpiInitResult : Prop :=
  ∀ (k : BitVec 8) (dff errie : Bool) (cr1 : Word) (s : State), s.mstate = .fresh → k.toNat < s.nSpi →
    (s.tc k.toNat .tx).st = .ready → (s.tc k.toNat .rx).st = .ready → (s.inst k.toNat).blk = false →
      (∃ u, exec (.spiInit k dff errie cr1) s = .next u)
        ∧ execRun 3 (.spiInit k dff errie cr1) s = .next (s.setInst k.toNat { s.inst k.toNat with
            cr1 := putBit cr1 s.cfg.pos.dff dff, cr2 := putBit 0 s.cfg.pos.errie errie }).complete

/-- 43_spi_engine.md R109, R110: the micro-steps of a blocking transfer. It begins by setting BLK (in the step of
its check, log 25); while its status bit
is 0 it polls; a frame takes four micro-steps, moving the bytes at `b` and leaving the rest of the buffer; the wait
after the last frame ends when BSY is 0, which clears BLK and completes the command. Both commands. -/
def Obligations.BlockingTransferSteps : Prop :=
  ∀ (d : Direction) (k : BitVec 8) (buf len : Word) (s : State), k.toNat < s.nSpi →
    let i := blockingCommand d k buf len
    let sr := (s.inst k.toNat).sr
    let polled := s.afterRead (.spi k.toNat .sr)
    let f := s.frameSizeOf k.toNat
    let go := fun (b l : Word) => MState.blocking (if l = 0 then .idle else .poll b l)
    (s.mstate = .fresh → (s.tc k.toNat .tx).st = .ready → (s.tc k.toNat .rx).st = .ready →
        (s.inst k.toNat).blk = false → exec i s = .next ((s.setBlk k.toNat true).goto (go buf len)))
      ∧ (∀ b l, s.mstate = .blocking (.poll b l) →
          sr.getLsbD (match d with | .tx => s.cfg.pos.txe | .rx => s.cfg.pos.rxne) = false → exec i s = .next polled)
      ∧ (∀ b l, s.mstate = .blocking (.poll b l) →
          sr.getLsbD (match d with | .tx => s.cfg.pos.txe | .rx => s.cfg.pos.rxne) = true →
          f.bytes ≤ l.toNat → s.ramOk b f = true →
            (∃ u, exec i s = .next u)
              ∧ execRun 4 i s = .next ((frameMoved polled k.toNat d b f).goto
                  (go (b + BitVec.ofNat 32 f.bytes) (l - BitVec.ofNat 32 f.bytes))))
      ∧ (s.mstate = .blocking .idle → sr.getLsbD s.cfg.pos.bsy = true → exec i s = .next polled)
      ∧ (s.mstate = .blocking .idle → sr.getLsbD s.cfg.pos.bsy = false →
          exec i s = .next (polled.setBlk k.toNat false).complete)

/-- 43_spi_engine.md R109, R126, R130: a blocking transmit of N frames whose every frame SPIDEV takes at once sends
exactly the buffer's frames, in ascending address order, and then waits for BSY; memory and LOG are untouched. -/
def Obligations.TransmitSendsBufferInOrder : Prop :=
  ∀ (k : BitVec 8) (buf len b l : Word) (s : State) (n : Nat), posWf s.cfg.pos = true → k.toNat < s.nSpi →
    let f := s.frameSizeOf k.toNat
    1 ≤ n → n * f.bytes < 2 ^ 32 → l = BitVec.ofNat 32 (n * f.bytes) → s.mstate = .blocking (.poll b l) →
    (s.inst k.toNat).sr.getLsbD s.cfg.pos.txe = true →
    (∀ j < n, s.ramOk (b + BitVec.ofNat 32 (j * f.bytes)) f = true) →
      ∃ t, sendFrames k buf len n s = some t ∧ t.mstate = .blocking .idle
        ∧ (t.inst k.toNat).txout = (s.inst k.toNat).txout
            ++ (List.range n).map (fun j => (s.mem.readFrame (b + BitVec.ofNat 32 (j * f.bytes)) f).setWidth 16)
        ∧ t.mem = s.mem ∧ t.log = s.log ∧ t.tc k.toNat .tx = s.tc k.toNat .tx ∧ t.tc k.toNat .rx = s.tc k.toNat .rx

/-- 43_spi_engine.md R111, R112: a start on a READY direction, without interference, completes in 6 micro-steps (3 when
START_ATOMIC, log 26) with the transfer context recorded and BUSY, the direction's interrupt enable set in CR2, and READY
appended to RES (its command index inside a callback: log 10); nothing else changes. Both commands. -/
def Obligations.StartResult : Prop :=
  ∀ (d : Direction) (k : BitVec 8) (buf len : Word) (s : State), s.mstate = .fresh → k.toNat < s.nSpi →
    (s.inst k.toNat).blk = false → (s.tc k.toNat d).st = .ready →
      (∃ u, exec (startCommand d k buf len) s = .next u)
        ∧ execRun (if s.cfg.startAtomic then 3 else 6) (startCommand d k buf len) s
          = .next ((s.setInst k.toNat { (s.inst k.toNat).setTc d ⟨buf, len, .busy⟩ with
              cr2 := putBit (s.inst k.toNat).cr2 (enablePos s.cfg.pos d) true }).result (.state .ready)).complete

/-- 43_spi_engine.md R135; 10_state.md R43: a start on a BUSY direction completes in one micro-step that appends BUSY to
RES, with its context and command index, and makes no write: no transfer context, no CR2, nothing else. Both commands.
(Inside a callback the index counts the callback's own list: the model's choice, log 10.) -/
def Obligations.RejectedStartChangesNothing : Prop :=
  ∀ (d : Direction) (k : BitVec 8) (buf len : Word) (s : State), s.mstate = .fresh → k.toNat < s.nSpi →
    (s.inst k.toNat).blk = false → (s.tc k.toNat d).st = .busy →
      exec (startCommand d k buf len) s
        = .next { s.complete with res := s.res ++ [⟨s.stack.kind, s.top.cur.pc, .state .busy⟩] }

/-- 43_spi_engine.md R122, R107: a close whose guard passes, without interference, completes in 6 micro-steps with the
direction's enable clear and its transfer context cleared and READY, and nothing else changed; where the instance's
source could preempt the caller, or its handler is suspended beneath it, it raises F_UNSAFE_CLOSE. Both commands. -/
def Obligations.CloseResult : Prop :=
  ∀ (d : Direction) (k : BitVec 8) (s : State), s.mstate = .fresh → k.toNat < s.nSpi →
    let q := spiSource s.cfg k.toNat
    let bad := (s.enabled q = true ∧ s.active q = false ∧ s.prio q < s.execPri)
      ∨ (s.active q = true ∧ s.stack.kind ≠ .isr q)
    (¬ bad → (∃ u, exec (closeCommand d k) s = .next u)
        ∧ execRun 6 (closeCommand d k) s = .next (closed s k.toNat d).complete)
      ∧ (bad → exec (closeCommand d k) s = .next (s.raise .unsafeClose))

/-! ## SPI: the dispatch -/

/-- 43_spi_engine.md R113, R120: the draw (log 4) gives each permutation of the four sub-handlers and nothing else.
SPI_IRQ_HANDLE reads SR for the first of the drawn order in its first micro-step, and for each later one when its turn
comes; the next micro-step reads CR2 and begins that sub-handler if its condition holds on the values read, or goes on
with the rest; with none left the command completes. -/
def Obligations.DispatchSelectsHandlers : Prop :=
  let all : List Handler := [.tick .tx, .tick .rx, .ovr, .crc]
  (∀ o, (orderHandlers o).Perm all) ∧ (∀ l, l.Perm all → ∃ o, orderHandlers o = l)
    ∧ ∀ (k : BitVec 8) (s : State), k.toNat < s.nSpi →
      let x := s.inst k.toNat
      let p := s.cfg.pos
      let selects := fun (h : Handler) (rest : List Handler) =>
        exec (.spiIrqHandle k) s = .next ((s.afterRead (.spi k.toNat .sr)).goto (.select h rest x.sr))
      s.continueDispatch [] = s.complete ∧ (∀ h l, s.continueDispatch (h :: l) = s.goto (.dispatch (h :: l)))
        ∧ (∀ h rest, s.mstate = .fresh → orderHandlers s.order = h :: rest → selects h rest)
        ∧ (∀ h rest, s.mstate = .dispatch (h :: rest) → selects h rest)
        ∧ (∀ h rest sr, s.mstate = .select h rest sr →
          (h = .tick .tx → exec (.spiIrqHandle k) s = .next
              (if sr.getLsbD p.txe ∧ x.cr2.getLsbD p.txeie then s.goto (.tick .tx rest .stRead)
                else s.continueDispatch rest))
            ∧ (h = .tick .rx → exec (.spiIrqHandle k) s = .next
              (if sr.getLsbD p.rxne ∧ x.cr2.getLsbD p.rxneie then s.goto (.tick .rx rest .stRead)
                else s.continueDispatch rest))
            ∧ (h = .ovr → exec (.spiIrqHandle k) s = .next
              (if sr.getLsbD p.ovr ∧ x.cr2.getLsbD p.errie then s.goto (.drain rest .stRead)
                else s.continueDispatch rest))
            ∧ (h = .crc → exec (.spiIrqHandle k) s = .next
              (if sr.getLsbD p.crcerr ∧ x.cr2.getLsbD p.errie then
                  if s.cfg.crcClear then s.goto (.crcClear rest) else s.notify k.toNat .crcErr rest
                else s.continueDispatch rest)))

/-- 43_spi_engine.md R113 (a spurious entry): a dispatch in which no condition holds and no overrun clear is due
completes in 8 micro-steps (log 3), whatever the draw (log 4), and changes nothing but the context's position. -/
def Obligations.IdleDispatchCompletes : Prop :=
  ∀ (k : BitVec 8) (s : State), s.mstate = .fresh → k.toNat < s.nSpi →
    let x := s.inst k.toNat
    let p := s.cfg.pos
    ¬ (x.sr.getLsbD p.txe = true ∧ x.cr2.getLsbD p.txeie = true) →
    ¬ (x.sr.getLsbD p.rxne = true ∧ x.cr2.getLsbD p.rxneie = true) →
    ¬ ((x.sr.getLsbD p.ovr = true ∨ x.sr.getLsbD p.crcerr = true) ∧ x.cr2.getLsbD p.errie = true) →
    ¬ (x.sr.getLsbD p.ovr = true ∧ x.ovrseq = true) →
      execRun 8 (.spiIrqHandle k) s = .next s.complete

/-- 43_spi_engine.md R114, R116, R107: a tick of a BUSY direction, without interference, moves one frame; with more than
a frame left it records the shorter length and the advanced pointer and goes on with the dispatch, with exactly a frame
left it closes the direction and then notifies its completion once (in the last micro-step of the close, log 3). -/
def Obligations.TickMovesOneFrame : Prop :=
  ∀ (k : BitVec 8) (d : Direction) (rest : List Handler) (s : State), k.toNat < s.nSpi →
    s.mstate = .tick d rest .stRead → (s.tc k.toNat d).st = .busy →
    let f := s.frameSizeOf k.toNat
    let b := (s.tc k.toNat d).buf
    let l := (s.tc k.toNat d).len
    let moved := frameMoved s k.toNat d b f
    s.ramOk b f = true →
      (f.bytes < l.toNat → execRun 8 (.spiIrqHandle k) s
          = .next ((moved.mapInst k.toNat (fun x => x.setTc d
              ⟨b + BitVec.ofNat 32 f.bytes, l - BitVec.ofNat 32 f.bytes, .busy⟩)).continueDispatch rest))
        ∧ (l.toNat = f.bytes → execRun 13 (.spiIrqHandle k) s
          = .next ((closed moved k.toNat d).notify k.toNat (completionEvent d) rest))

/-- 43_spi_engine.md R128, R114 to R116: a transfer of N frames takes exactly N ticks without interference. Before the
(n+1)-th tick the pointer has advanced by n frames and the length shrunk by as many, with no notification; the N-th tick
leaves the context cleared and READY and appends the one completion event of its own direction to LOG. -/
def Obligations.TransferTakesExactlyNTicks : Prop :=
  ∀ (k : BitVec 8) (d : Direction) (s : State) (b : Word) (n : Nat), k.toNat < s.nSpi →
    let f := s.frameSizeOf k.toNat
    1 ≤ n → n * f.bytes < 2 ^ 32 → s.tc k.toNat d = ⟨b, BitVec.ofNat 32 (n * f.bytes), .busy⟩ →
    (∀ j < n, s.ramOk (b + BitVec.ofNat 32 (j * f.bytes)) f = true) →
      (∀ j < n, ∃ u, ticks k d j s = some u ∧ u.log = s.log
          ∧ u.tc k.toNat d
            = ⟨b + BitVec.ofNat 32 (j * f.bytes), BitVec.ofNat 32 ((n - j) * f.bytes), .busy⟩)
        ∧ ∃ t, ticks k d n s = some t ∧ t.tc k.toNat d = ⟨0, 0, .ready⟩
          ∧ t.log = s.log ++ [(k.toNat, match d with | .tx => Event.txCmplt | .rx => Event.rxCmplt)]

/-- 43_spi_engine.md R114, R115, R116, R124; 20_memory.md R53; 60_exceptions.md R139: where a transfer stops. A tick on a
READY direction raises F_TICK_READY; a tick with less than a frame left raises F_LEN_UNDERFLOW at its length read, in
both directions; so does a blocking transfer, of either kind, at the frame it has too few bytes for. A frame whose
buffer bytes are not all in RAM leaves the context stuck with no record, in all four transfers, and nothing else changes
(log 11). -/
def Obligations.TransferStops : Prop :=
  ∀ (k : BitVec 8) (d : Direction) (rest : List Handler) (buf len : Word) (s : State), k.toNat < s.nSpi →
    let stuck := s.setTop { s.top with stuck := some .badAddress }
    (s.mstate = .tick d rest .stRead → (s.tc k.toNat d).st = .ready →
        exec (.spiIrqHandle k) s = .next (s.raise .tickReady))
      ∧ (∀ f, s.mstate = .tick d rest (.lenRead f) → (s.tc k.toNat d).len.toNat < f.bytes →
        exec (.spiIrqHandle k) s = .next (s.raise .lenUnderflow))
      ∧ (∀ b l, s.mstate = .blocking (.frame b l) → l.toNat < (s.frameSizeOf k.toNat).bytes →
        exec (blockingCommand d k buf len) s = .next (s.raise .lenUnderflow))
      ∧ ∀ (f : FrameSize) (b l x : Word), s.ramOk b f = false →
        (s.mstate = .tick .tx rest (.first f l b) → exec (.spiIrqHandle k) s = .next stuck)
          ∧ (s.mstate = .tick .rx rest (.second f l b x) → exec (.spiIrqHandle k) s = .next stuck)
          ∧ (s.mstate = .blocking (.first b l f) → exec (.spiTransmit k buf len) s = .next stuck)
          ∧ (s.mstate = .blocking (.second b l f x) → exec (.spiReceive k buf len) s = .next stuck)

/-- 43_spi_engine.md R117, R132: with a transmit in flight the overrun handler only notifies; else it drains DR and SR,
after which OVR, OVRSEQ and RXNE are clear (if OVR was set), and then notifies. -/
def Obligations.OverrunHandlerResult : Prop :=
  ∀ (k : BitVec 8) (rest : List Handler) (s : State), k.toNat < s.nSpi → s.mstate = .drain rest .stRead →
    ((s.tc k.toNat .tx).st = .busy → exec (.spiIrqHandle k) s = .next (s.notify k.toNat .ovrErr rest))
      ∧ ((s.tc k.toNat .tx).st = .ready →
        ∃ u, execRun 3 (.spiIrqHandle k) s = .next (u.notify k.toNat .ovrErr rest)
          ∧ u = (s.afterRead (.spi k.toNat .dr)).afterRead (.spi k.toNat .sr)
          ∧ (posWf s.cfg.pos = true → (s.inst k.toNat).sr.getLsbD s.cfg.pos.ovr = true →
            (u.inst k.toNat).sr.getLsbD s.cfg.pos.ovr = false ∧ (u.inst k.toNat).ovrseq = false
              ∧ (u.inst k.toNat).sr.getLsbD s.cfg.pos.rxne = false))

/-- 43_spi_engine.md R120, R121, R133: the CRC handler whose condition holds notifies CRC_ERR; with CRC_CLEAR it first
writes SR, which clears CRCERR and no other bit. A notification appends its event to LOG; with an empty callback the
dispatch goes on at once, else the callback's commands run in the same context, from their first, above the dispatch
that waits with the sub-handlers it has left (log 10). -/
def Obligations.CrcHandlerResult : Prop :=
  (∀ (k : BitVec 8) (rest : List Handler) (sr : Word) (s : State), k.toNat < s.nSpi →
    s.mstate = .select .crc rest sr → sr.getLsbD s.cfg.pos.crcerr = true →
    (s.inst k.toNat).cr2.getLsbD s.cfg.pos.errie = true →
      (s.cfg.crcClear = false → exec (.spiIrqHandle k) s = .next (s.notify k.toNat .crcErr rest))
        ∧ (s.cfg.crcClear = true → execRun 2 (.spiIrqHandle k) s
          = .next ((s.setInst k.toNat { s.inst k.toNat with
              sr := putBit (s.inst k.toNat).sr s.cfg.pos.crcerr false }).notify k.toNat .crcErr rest)))
    ∧ ∀ (s : State) (k : Nat) (ev : Event) (rest : List Handler),
      let prog := (s.cfg.callbacks.lookup (k, ev)).getD []
      let logged : State := { s with log := s.log ++ [(k, ev)] }
      (prog = [] → s.notify k ev rest = logged.continueDispatch rest)
        ∧ (prog ≠ [] → s.notify k ev rest = logged.setTop { s.top with
            cur := ⟨prog, 0, .fresh⟩, outer := { s.top.cur with mst := .dispatch rest } :: s.top.outer })

/-! ## SPI: the peripheral -/

/-- 43_spi_engine.md R129: a DR write puts the frame's low bits into TXQ, replacing any frame there, and clears TXE. -/
def Obligations.DataRegisterWrite : Prop :=
  ∀ (s : State) (k : Nat) (v : Word), k < s.nSpi →
    let x := s.inst k
    let y := (s.regWrite (.spi k .dr) v).inst k
    y = { x with txq := y.txq, sr := y.sr }
      ∧ y.txq = some (if x.cr1.getLsbD s.cfg.pos.dff then v.setWidth 16 else (v.setWidth 8).setWidth 16)
      ∧ ∀ i, y.sr.getLsbD i = if i = s.cfg.pos.txe then false else x.sr.getLsbD i

/-- 43_spi_engine.md R130, R131, R133; 10_state.md R36: what a step of SPIDEV does, for each of its events; nothing
but the instance changes. It takes a queued frame: the frame joins TXOUT, TXQ empties, TXE and BSY are set; where no
frame is queued, a move the rules do not give, the instance stays as it is (the model's choice, log 12). An arriving
frame, its low byte alone in 8-bit mode, fills an empty receive buffer and sets RXNE; on a full one it sets OVR, and
the draw says whether it replaces the old frame. BSY is set or cleared, MODF or CRCERR set. The bits of SR that are no
flag take any value (the model's reading, log 18). -/
def Obligations.SpiDeviceSteps : Prop :=
  ∀ (s : State) (k : Nat) (e : SpiEvent) (rest : List Move), k < s.nSpi →
    s.mustReturn = false → s.sched = .spi k e :: rest →
    let x := s.inst k
    let p := s.cfg.pos
    ∃ y : Spi, step s = .next (State.setInst { s with sched := rest } k y)
      ∧ match e with
        | .takeFrame =>
          (x.txq = none → y = x)
            ∧ ∀ f, x.txq = some f → y = { x with txout := x.txout ++ [f], txq := none, sr := y.sr }
              ∧ ∀ i, y.sr.getLsbD i = if i = p.txe ∨ i = p.bsy then true else x.sr.getLsbD i
        | .arrive v replace =>
          let f : Half := if x.cr1.getLsbD p.dff then v else (v.setWidth 8).setWidth 16
          y = { x with rxbuf := y.rxbuf, sr := y.sr }
            ∧ (x.sr.getLsbD p.rxne = false → y.rxbuf = f
                ∧ ∀ i, y.sr.getLsbD i = if i = p.rxne then true else x.sr.getLsbD i)
            ∧ (x.sr.getLsbD p.rxne = true → y.rxbuf = (if replace then f else x.rxbuf)
                ∧ ∀ i, y.sr.getLsbD i = if i = p.ovr then true else x.sr.getLsbD i)
        | .busy b =>
          y = { x with sr := y.sr } ∧ ∀ i, y.sr.getLsbD i = if i = p.bsy then b else x.sr.getLsbD i
        | .modeFault =>
          y = { x with sr := y.sr } ∧ ∀ i, y.sr.getLsbD i = if i = p.modf then true else x.sr.getLsbD i
        | .crcError =>
          y = { x with sr := y.sr } ∧ ∀ i, y.sr.getLsbD i = if i = p.crcerr then true else x.sr.getLsbD i
        | .opaqueBits v =>
          y = { x with sr := y.sr }
            ∧ ∀ i, y.sr.getLsbD i
              = if i = p.txe ∨ i = p.rxne ∨ i = p.bsy ∨ i = p.ovr ∨ i = p.crcerr ∨ i = p.modf
                then x.sr.getLsbD i else v.getLsbD i

/-- 43_spi_engine.md R132: what reading DR and SR returns and changes. -/
def Obligations.DataAndStatusReads : Prop :=
  ∀ (s : State) (k : Nat), k < s.nSpi →
    let x := s.inst k
    let p := s.cfg.pos
    let afterDr := (s.afterRead (.spi k .dr)).inst k
    let afterSr := (s.afterRead (.spi k .sr)).inst k
    s.regValue (.spi k .dr) = x.rxbuf.setWidth 32 ∧ s.regValue (.spi k .sr) = x.sr
      ∧ afterDr = { x with sr := afterDr.sr, ovrseq := x.ovrseq || x.sr.getLsbD p.ovr }
      ∧ (∀ i, afterDr.sr.getLsbD i = if i = p.rxne then false else x.sr.getLsbD i)
      ∧ (x.sr.getLsbD p.ovr = true ∧ x.ovrseq = true →
          afterSr = { x with sr := afterSr.sr, ovrseq := false }
            ∧ ∀ i, afterSr.sr.getLsbD i = if i = p.ovr then false else x.sr.getLsbD i)
      ∧ (¬ (x.sr.getLsbD p.ovr = true ∧ x.ovrseq = true) → afterSr = x)

/-! ## Requests, edges and delivery -/

/-- 10_state.md R21, 41_exti_router.md R100, 43_spi_engine.md R134, 60_exceptions.md R148: with the source numbers the
spec demands (92_eei_decisions.md D44), the request of an SPI source is that instance's line, and the request of an EXTI
source the OR of its lines' unmasked pending bits. The request of every other source is its free input, and a step of
the environment sets that input and nothing else (log 19). -/
def Obligations.RequestLevels : Prop :=
  ∀ s : State,
    (sourcesWf s.cfg = true → s.cfg.spiIrq.length = s.nSpi →
      (∀ k < s.nSpi,
        let x := s.inst k
        let p := s.cfg.pos
        s.request (spiSource s.cfg k) = true ↔
          (x.sr.getLsbD p.txe = true ∧ x.cr2.getLsbD p.txeie = true)
            ∨ (x.sr.getLsbD p.rxne = true ∧ x.cr2.getLsbD p.rxneie = true)
            ∨ ((x.sr.getLsbD p.ovr = true ∨ x.sr.getLsbD p.crcerr = true ∨ x.sr.getLsbD p.modf = true)
              ∧ x.cr2.getLsbD p.errie = true))
        ∧ ∀ i, (∃ l < 16, extiSource s.cfg l = i) →
          (s.request i = true ↔ ∃ l < 16, extiSource s.cfg l = i ∧ s.exti.pr.getLsbD l = true
            ∧ s.exti.imr.getLsbD l = true))
      ∧ ∀ i : Nat, i < s.cfg.nIrq → (∀ l < 16, extiSource s.cfg l ≠ i) → (∀ k < s.nSpi, spiSource s.cfg k ≠ i) →
        s.request i = s.extReq.getLsbD i
          ∧ ∀ (level : Bool) (rest : List Move), s.mustReturn = false → s.sched = .request i level :: rest →
            ∃ t, step s = .next t ∧ t = { s with sched := rest, extReq := t.extReq }
              ∧ ∀ j, t.extReq.getLsbD j = if j = i then level else s.extReq.getLsbD j

/-- 41_exti_router.md R99; 60_exceptions.md R148: a step of PINS, a pin's change of level, flips that pin alone, and sets
exactly the pending bit of its line when the line selects the port, the edge matches the line's trigger, and the line is
unmasked or latches masked (log 28). -/
def Obligations.PinEdgeLatches : Prop :=
  ∀ (s : State) (p : Fin 9) (n : Fin 16) (rest : List Move),
    s.mustReturn = false → s.sched = .pinChange p n :: rest →
    let old := (s.port p).pin.getLsbD n
    ∃ t, step s = .next t
      ∧ t = { s with sched := rest, gpio := t.gpio, exti := { s.exti with pr := t.exti.pr } }
      ∧ (∀ q : Nat, q < 9 → t.port q = { s.port q with pin := (t.port q).pin })
      ∧ (∀ q m : Nat, q < 9 → m < 16 →
          (t.port q).pin.getLsbD m = ((s.port q).pin.getLsbD m != (decide (q = p) && decide (m = n))))
      ∧ ∀ l : Nat, t.exti.pr.getLsbD l = true ↔ s.exti.pr.getLsbD l = true
          ∨ (l = n ∧ s.selected l = p ∧ (s.exti.imr.getLsbD l = true ∨ s.cfg.prLatchMasked = true)
            ∧ ((old = false ∧ s.exti.rtsr.getLsbD l = true) ∨ (old = true ∧ s.exti.ftsr.getLsbD l = true)))

/-- 60_exceptions.md R142, R143, R148: the pending latch, the choice, and the fairness of entry. A step of the latch sets
the pending bit of its source if the source requests and is not active, enabled or not, and changes nothing else; for a
source that does not request or is active, a move R142 does not give, it changes no pending bit (the model's choice,
log 12). The chosen source is eligible, and before every other eligible one by priority, then by index. In an execution,
a run that is weakly fair to entry as log 22 reads R143, no source stays eligible for ever. -/
def Obligations.EntryChoiceAndFairness : Prop :=
  (∀ (s : State) (i : Nat) (rest : List Move), i < s.cfg.nIrq → s.mustReturn = false → s.sched = .pend i :: rest →
    ∃ t, step s = .next t ∧ t = { s with sched := rest, nvic := { s.nvic with pend := t.nvic.pend } }
      ∧ ∀ j, t.pending j = true ↔ s.pending j = true ∨ (j = i ∧ s.request i = true ∧ s.active i = false))
    ∧ (∀ (s : State) (i : Nat), i < s.cfg.nIrq →
      (s.chosen = some i ↔ s.eligible i = true
        ∧ ∀ j : Nat, j < s.cfg.nIrq → s.eligible j = true → s.prio i < s.prio j ∨ (s.prio i = s.prio j ∧ i ≤ j)))
    ∧ ∀ r : Nat → State, Execution r → ∀ n i : Nat, i < (r n).cfg.nIrq → ∃ m, n ≤ m ∧ (r m).eligible i = false

/-- 60_exceptions.md R144, R146: the entry step clears PEND, sets ACT, and pushes the source's body at its first command;
the contexts beneath, and every device register and byte of memory, stay as they are. With the source numbers the spec
demands, the body of an SPI source is one SPI_IRQ_HANDLE of its instance, and the body of every other source its list of
the launch, empty where it has none (log 23). -/
def Obligations.EntryStep : Prop :=
  (∀ (s : State) (i : Nat) (rest : List Move), s.mustReturn = false → s.sched = .enter :: rest → s.chosen = some i →
    ∃ t, step s = .next t
      ∧ t = { s with sched := rest, nvic := { s.nvic with pend := t.nvic.pend, act := t.nvic.act },
                     stack := { s.stack with isrs := ⟨i, Thread.start (s.isrBody i)⟩ :: s.stack.isrs } }
      ∧ (∀ j, t.pending j = if j = i then false else s.pending j)
      ∧ ∀ j, t.active j = if j = i then true else s.active j)
    ∧ ∀ s : State, sourcesWf s.cfg = true → s.cfg.spiIrq.length = s.nSpi →
      (∀ k < s.nSpi, s.isrBody (spiSource s.cfg k) = encode (.spiIrqHandle (BitVec.ofNat 8 k)))
        ∧ ∀ i, (∀ k < s.nSpi, spiSource s.cfg k ≠ i) → s.isrBody i = (s.cfg.isrBodies.lookup i).getD []

/-- 60_exceptions.md R145, R148: a completed interrupt context returns in the very next step, whatever the schedule:
its ACT bit clears and the context beneath is on top, as it was left. -/
def Obligations.ReturnStep : Prop :=
  ∀ (s : State) (x : Isr) (l : List Isr), s.stack.isrs = x :: l → x.thread.completed = true →
    ∃ t, step s = .next t
      ∧ t = { s with nvic := { s.nvic with act := t.nvic.act }, stack := { s.stack with isrs := l } }
      ∧ ∀ j, t.active j = if j = x.source then false else s.active j

/-! ## Reset -/

/-- 70_reset_and_hazards.md R158, R159: the reset values of every row of the table, for every launch; what the table
leaves to the launch is the launch's. -/
def Obligations.ResetValues : Prop :=
  ∀ l : Launch, posWf l.cfg.pos = true →
    let s := State.initial l
    let p := l.cfg.pos
    (∀ i, s.enabled i = false ∧ s.pending i = false ∧ s.active i = false)
      ∧ (∀ r : Fin 60, s.nvic.ipr[r] = 0)
      ∧ s.exti.imr = 0 ∧ s.exti.rtsr = 0 ∧ s.exti.ftsr = 0 ∧ s.exti.pr = l.extiPr
      ∧ (∀ k : Fin 4, s.exticr[k] = 0)
      ∧ (∀ q : Fin 9, (s.port q).moder = l.cfg.resetVal[q].moder ∧ (s.port q).ospeedr = l.cfg.resetVal[q].ospeedr
          ∧ (s.port q).pupdr = l.cfg.resetVal[q].pupdr ∧ (s.port q).otyper = 0 ∧ (s.port q).afr0 = 0
          ∧ (s.port q).afr1 = 0 ∧ (s.port q).odr = 0 ∧ (s.port q).pin = l.pins[q])
      ∧ (∀ k < s.nSpi, let x := s.inst k
          x.cr1 = 0 ∧ x.cr2 = 0 ∧ x.sr.getLsbD p.txe = true ∧ x.sr.getLsbD p.rxne = false
          ∧ x.sr.getLsbD p.bsy = false ∧ x.sr.getLsbD p.ovr = false ∧ x.sr.getLsbD p.crcerr = false
          ∧ x.sr.getLsbD p.modf = false ∧ x.rxbuf = 0 ∧ x.txq = none ∧ x.ovrseq = false ∧ x.txout = []
          ∧ x.tx = ⟨0, 0, .ready⟩ ∧ x.rx = ⟨0, 0, .ready⟩ ∧ x.blk = false)
      ∧ s.stack = ⟨Thread.start l.program, []⟩ ∧ s.execPri = 16
      ∧ s.log = [] ∧ s.res = [] ∧ s.faults = [] ∧ s.refused = false ∧ s.mem = l.mem
end

