-- ==== Sys2Proof/Laws/Bits.lean ====
section
/-! SUPPORT. The bits of the values Operands.lean computes (30_encoding.md R64 to R71). -/

namespace Sys2Proof.Machine

@[simp] theorem getLsbD_oneHot (n i : Nat) : (oneHot n).getLsbD i = (decide (i < 32) && decide (i = n)) := by
  simp only [oneHot, BitVec.getLsbD_shiftLeft, BitVec.getLsbD_one]
  grind

@[simp] theorem getLsbD_sourceBit (n i : Nat) :
    (sourceBit n).getLsbD i = (decide (i < 240) && decide (i = n)) := by
  simp only [sourceBit, BitVec.getLsbD_shiftLeft, BitVec.getLsbD_one]
  grind

/-- The one-bit write of R71 sets its bit and keeps every other. -/
@[simp] theorem getLsbD_putBit (v : Word) (n : Nat) (b : Bool) (i : Nat) :
    (putBit v n b).getLsbD i = if i = n ∧ i < 32 then b else v.getLsbD i := by
  have h : 32 ≤ i → v.getLsbD i = false := BitVec.getLsbD_of_ge v i
  cases b <;> simp only [putBit, ite_true, Bool.false_eq_true, ite_false, BitVec.getLsbD_or, BitVec.getLsbD_and,
    BitVec.getLsbD_not, getLsbD_oneHot] <;> grind

/-- The present sources' bits are those below `N_IRQ`. -/
@[simp] theorem getLsbD_presentSources (n i : Nat) (h : n ≤ 240) :
    (presentSources n).getLsbD i = decide (i < n) := by
  simp only [presentSources, BitVec.getLsbD_ushiftRight, BitVec.getLsbD_allOnes]
  grind

/-- A bank's bits at their places among the sources. -/
theorem getLsbD_bankBits (b : Nat) (v : Word) (i : Nat) :
    (bankBits b v).getLsbD i = (decide (i < 240) && decide (32 * b ≤ i) && v.getLsbD (i - 32 * b)) := by
  simp only [bankBits, BitVec.getLsbD_shiftLeft, BitVec.getLsbD_setWidth]
  grind

/-- The one-hot write of source `j`'s bank touches source `j` alone (40_nvic.md R84, R91). -/
theorem getLsbD_bankBits_oneHot (j i : Nat) :
    (bankBits (bankOf j) (oneHot (bitOf j))).getLsbD i = (decide (i < 240) && decide (i = j)) := by
  simp only [getLsbD_bankBits, getLsbD_oneHot, bankOf, bitOf]
  grind

/-- A masked field write, bit by bit. -/
theorem getLsbD_insertField (v m x : Word) (sh i : Nat) :
    (insertField v m x sh).getLsbD i =
      ((v.getLsbD i && !(decide (sh ≤ i) && m.getLsbD (i - sh))) ||
        (decide (i < 32) && decide (sh ≤ i) && x.getLsbD (i - sh))) := by
  have h : 32 ≤ i → v.getLsbD i = false := BitVec.getLsbD_of_ge v i
  simp only [insertField, BitVec.getLsbD_or, BitVec.getLsbD_and, BitVec.getLsbD_not, BitVec.getLsbD_shiftLeft]
  grind

/-- The check `distinctNats` says that a list has no repeats. -/
theorem nodup_of_distinctNats {l : List Nat} (h : distinctNats l = true) : l.Nodup := by
  induction l with
  | nil => exact List.nodup_nil
  | cons a l ih =>
    simp only [distinctNats, Bool.and_eq_true, Bool.not_eq_true', List.contains_eq_mem, decide_eq_false_iff_not] at h
    exact List.nodup_cons.mpr ⟨h.1, ih h.2⟩

end Sys2Proof.Machine
end

