-- ==== Sys2Proof/Laws/Memory.lean ====
section
/-! SUPPORT. Buffer memory: reading after writing, and the canonical form, which every write keeps
(20_memory.md R53, R55). -/

namespace Sys2Proof.Machine

namespace Memory

/-- An address below every listed one reads as an unlisted address. -/
theorem byte_below {m : Memory} {a : Nat} (h : ∀ c ∈ m, a < c.1) : m.byte a = unlisted := by
  induction m with
  | nil => rfl
  | cons c m ih =>
    have hc : a < c.1 := h c (by simp)
    simp only [Memory.byte, if_neg (show ¬ c.1 = a by omega)]
    exact ih fun x hx => h x (by simp [hx])

theorem mem_cons {m : Memory} {a : Nat} {v : Byte} {c : Host.Cell} (h : c ∈ Memory.cons a v m) :
    c ∈ m ∨ (c = (a, v) ∧ v ≠ unlisted) := by
  unfold Memory.cons at h
  split at h <;> simp_all [or_comm]

theorem byte_cons {m : Memory} {a : Nat} {v : Byte} (h : ∀ c ∈ m, a < c.1) (x : Nat) :
    Memory.byte (Memory.cons a v m) x = if a = x then v else m.byte x := by
  unfold Memory.cons
  split
  · split
    · subst x; simp_all [byte_below h]
    · rfl
  · simp [Memory.byte]

theorem pairwise_cons {m : Memory} {a : Nat} {v : Byte} (h : ∀ c ∈ m, a < c.1)
    (hm : m.Pairwise (fun x y => x.1 < y.1)) : (Memory.cons a v m).Pairwise (fun x y => x.1 < y.1) := by
  unfold Memory.cons
  split
  · exact hm
  · exact List.pairwise_cons.mpr ⟨fun c hc => h c hc, hm⟩

/-- A written memory lists what it listed, or the byte written. -/
theorem mem_write {m : Memory} {a : Nat} {v : Byte} {c : Host.Cell} (h : c ∈ m.write a v) :
    c ∈ m ∨ (c = (a, v) ∧ v ≠ unlisted) := by
  induction m with
  | nil => exact (mem_cons h)
  | cons e m ih =>
    simp only [Memory.write] at h
    split at h
    · exact mem_cons h
    · split at h
      · rcases mem_cons h with h | h
        · exact .inl (by simp [h])
        · exact .inr h
      · rcases List.mem_cons.mp h with h | h
        · exact .inl (by simp [h])
        · rcases ih h with h | h
          · exact .inl (by simp [h])
          · exact .inr h

/-- Reading a byte after writing one: the byte written at its address, every other byte as before. -/
theorem byte_write {m : Memory} (h : m.Pairwise (fun x y => x.1 < y.1)) (a : Nat) (v : Byte) (x : Nat) :
    (m.write a v).byte x = if a = x then v else m.byte x := by
  induction m with
  | nil => exact byte_cons (by simp) x
  | cons e m ih =>
    obtain ⟨he, hm⟩ := List.pairwise_cons.mp h
    simp only [Memory.write]
    split
    · rename_i hlt
      refine byte_cons (fun c hc => ?_) x
      rcases List.mem_cons.mp hc with rfl | hc
      · exact hlt
      · exact Nat.lt_trans hlt (he c hc)
    · split
      · rename_i heq
        subst heq
        rw [byte_cons (fun c hc => he c hc)]
        simp only [Memory.byte]
        split <;> rfl
      · rename_i hlt hne
        simp only [Memory.byte, ih hm]
        split <;> split <;> simp_all

/-- Writing a byte keeps the canonical form. -/
theorem wf_write {m : Memory} (h : m.wf) {a : Nat} (ha : a < 2 ^ 32) (v : Byte) : (m.write a v).wf := by
  obtain ⟨hp, hc⟩ := h
  refine ⟨?_, fun c hm => ?_⟩
  · clear hc
    induction m with
    | nil => exact pairwise_cons (by simp) List.Pairwise.nil
    | cons e m ih =>
      obtain ⟨he, hm⟩ := List.pairwise_cons.mp hp
      simp only [Memory.write]
      split
      · rename_i hlt
        refine pairwise_cons (fun c hc => ?_) hp
        rcases List.mem_cons.mp hc with rfl | hc
        · exact hlt
        · exact Nat.lt_trans hlt (he c hc)
      · split
        · rename_i heq
          exact pairwise_cons (fun c hc => heq ▸ he c hc) hm
        · rename_i hlt hne
          refine List.pairwise_cons.mpr ⟨fun c hc => ?_, ih hm⟩
          rcases mem_write hc with hc | ⟨rfl, -⟩
          · exact he c hc
          · have : e.1 < a := by omega
            exact this
  · rcases mem_write hm with hm | ⟨rfl, hv⟩
    · exact hc c hm
    · exact ⟨hv, ha⟩

/-- A frame write keeps the canonical form. -/
theorem wf_writeFrame {m : Memory} (h : m.wf) (a : Word) (f : FrameSize) (v : Word) : (m.writeFrame a f v).wf := by
  cases f with
  | one => exact wf_write h a.isLt _
  | two => exact wf_write (wf_write h a.isLt _) (a + 1).isLt _

/-- A frame write changes only the frame's own bytes, and little-endian (R55). -/
theorem byte_writeFrame {m : Memory} (h : m.wf) (a : Word) (f : FrameSize) (v : Word) (x : Nat) :
    (m.writeFrame a f v).byte x =
      match f with
      | .one => if a.toNat = x then v.setWidth 8 else m.byte x
      | .two => if (a + 1).toNat = x then (v >>> 8).setWidth 8 else if a.toNat = x then v.setWidth 8 else m.byte x := by
  cases f with
  | one => exact byte_write h.1 _ _ _
  | two => simp only [Memory.writeFrame, byte_write (wf_write h a.isLt _).1, byte_write h.1]

/-- Every byte outside a frame reads as before the frame was written. -/
theorem byte_writeFrame_ne {m : Memory} (h : m.wf) {a : Word} {f : FrameSize} {v : Word} {x : Nat}
    (hx : ∀ b ∈ frameAddrs a f, b.toNat ≠ x) : (m.writeFrame a f v).byte x = m.byte x := by
  rw [byte_writeFrame h]
  cases f <;> simp_all [frameAddrs]

end Memory

end Sys2Proof.Machine
end

