-- ==== Sys2Proof/Laws/State.lean ====
section
/-! SUPPORT. What each update of the state leaves alone: one equation per field, for simp, so that no proof unfolds an
update. -/

namespace Sys2Proof.Machine

@[simp] theorem setPort_fields (s : State) (p : Nat) (x : Port) :
    (s.setPort p x).cfg = s.cfg ∧ (s.setPort p x).nvic = s.nvic ∧ (s.setPort p x).exti = s.exti
      ∧ (s.setPort p x).exticr = s.exticr ∧ (s.setPort p x).extReq = s.extReq ∧ (s.setPort p x).spi = s.spi
      ∧ (s.setPort p x).mem = s.mem ∧ (s.setPort p x).stack = s.stack ∧ (s.setPort p x).log = s.log
      ∧ (s.setPort p x).res = s.res ∧ (s.setPort p x).faults = s.faults ∧ (s.setPort p x).refused = s.refused
      ∧ (s.setPort p x).sched = s.sched ∧ (s.setPort p x).moves = s.moves ∧ (s.setPort p x).order = s.order := by
  exact ⟨rfl, rfl, rfl, rfl, rfl, rfl, rfl, rfl, rfl, rfl, rfl, rfl, rfl, rfl, rfl⟩

@[simp] theorem setInst_fields (s : State) (k : Nat) (x : Spi) :
    (s.setInst k x).cfg = s.cfg ∧ (s.setInst k x).nvic = s.nvic ∧ (s.setInst k x).exti = s.exti
      ∧ (s.setInst k x).exticr = s.exticr ∧ (s.setInst k x).gpio = s.gpio ∧ (s.setInst k x).extReq = s.extReq
      ∧ (s.setInst k x).mem = s.mem ∧ (s.setInst k x).stack = s.stack ∧ (s.setInst k x).log = s.log
      ∧ (s.setInst k x).res = s.res ∧ (s.setInst k x).faults = s.faults ∧ (s.setInst k x).refused = s.refused
      ∧ (s.setInst k x).sched = s.sched ∧ (s.setInst k x).moves = s.moves ∧ (s.setInst k x).order = s.order := by
  exact ⟨rfl, rfl, rfl, rfl, rfl, rfl, rfl, rfl, rfl, rfl, rfl, rfl, rfl, rfl, rfl⟩

@[simp] theorem mapInst_fields (s : State) (k : Nat) (f : Spi → Spi) :
    (s.mapInst k f).cfg = s.cfg ∧ (s.mapInst k f).nvic = s.nvic ∧ (s.mapInst k f).exti = s.exti
      ∧ (s.mapInst k f).exticr = s.exticr ∧ (s.mapInst k f).gpio = s.gpio ∧ (s.mapInst k f).extReq = s.extReq
      ∧ (s.mapInst k f).mem = s.mem ∧ (s.mapInst k f).stack = s.stack ∧ (s.mapInst k f).log = s.log
      ∧ (s.mapInst k f).res = s.res ∧ (s.mapInst k f).faults = s.faults ∧ (s.mapInst k f).refused = s.refused
      ∧ (s.mapInst k f).sched = s.sched ∧ (s.mapInst k f).moves = s.moves ∧ (s.mapInst k f).order = s.order := by
  exact ⟨rfl, rfl, rfl, rfl, rfl, rfl, rfl, rfl, rfl, rfl, rfl, rfl, rfl, rfl, rfl⟩

@[simp] theorem setBuf_fields (s : State) (k : Nat) (d : Direction) (v : Word) :
    (s.setBuf k d v).cfg = s.cfg ∧ (s.setBuf k d v).nvic = s.nvic ∧ (s.setBuf k d v).exti = s.exti
      ∧ (s.setBuf k d v).exticr = s.exticr ∧ (s.setBuf k d v).gpio = s.gpio ∧ (s.setBuf k d v).extReq = s.extReq
      ∧ (s.setBuf k d v).mem = s.mem ∧ (s.setBuf k d v).stack = s.stack ∧ (s.setBuf k d v).log = s.log
      ∧ (s.setBuf k d v).res = s.res ∧ (s.setBuf k d v).faults = s.faults ∧ (s.setBuf k d v).refused = s.refused
      ∧ (s.setBuf k d v).sched = s.sched ∧ (s.setBuf k d v).moves = s.moves ∧ (s.setBuf k d v).order = s.order := by
  exact ⟨rfl, rfl, rfl, rfl, rfl, rfl, rfl, rfl, rfl, rfl, rfl, rfl, rfl, rfl, rfl⟩

@[simp] theorem setLen_fields (s : State) (k : Nat) (d : Direction) (v : Word) :
    (s.setLen k d v).cfg = s.cfg ∧ (s.setLen k d v).nvic = s.nvic ∧ (s.setLen k d v).exti = s.exti
      ∧ (s.setLen k d v).exticr = s.exticr ∧ (s.setLen k d v).gpio = s.gpio ∧ (s.setLen k d v).extReq = s.extReq
      ∧ (s.setLen k d v).mem = s.mem ∧ (s.setLen k d v).stack = s.stack ∧ (s.setLen k d v).log = s.log
      ∧ (s.setLen k d v).res = s.res ∧ (s.setLen k d v).faults = s.faults ∧ (s.setLen k d v).refused = s.refused
      ∧ (s.setLen k d v).sched = s.sched ∧ (s.setLen k d v).moves = s.moves ∧ (s.setLen k d v).order = s.order := by
  exact ⟨rfl, rfl, rfl, rfl, rfl, rfl, rfl, rfl, rfl, rfl, rfl, rfl, rfl, rfl, rfl⟩

@[simp] theorem setSt_fields (s : State) (k : Nat) (d : Direction) (v : TransferState) :
    (s.setSt k d v).cfg = s.cfg ∧ (s.setSt k d v).nvic = s.nvic ∧ (s.setSt k d v).exti = s.exti
      ∧ (s.setSt k d v).exticr = s.exticr ∧ (s.setSt k d v).gpio = s.gpio ∧ (s.setSt k d v).extReq = s.extReq
      ∧ (s.setSt k d v).mem = s.mem ∧ (s.setSt k d v).stack = s.stack ∧ (s.setSt k d v).log = s.log
      ∧ (s.setSt k d v).res = s.res ∧ (s.setSt k d v).faults = s.faults ∧ (s.setSt k d v).refused = s.refused
      ∧ (s.setSt k d v).sched = s.sched ∧ (s.setSt k d v).moves = s.moves ∧ (s.setSt k d v).order = s.order := by
  exact ⟨rfl, rfl, rfl, rfl, rfl, rfl, rfl, rfl, rfl, rfl, rfl, rfl, rfl, rfl, rfl⟩

@[simp] theorem setBlk_fields (s : State) (k : Nat) (b : Bool) :
    (s.setBlk k b).cfg = s.cfg ∧ (s.setBlk k b).nvic = s.nvic ∧ (s.setBlk k b).exti = s.exti
      ∧ (s.setBlk k b).exticr = s.exticr ∧ (s.setBlk k b).gpio = s.gpio ∧ (s.setBlk k b).extReq = s.extReq
      ∧ (s.setBlk k b).mem = s.mem ∧ (s.setBlk k b).stack = s.stack ∧ (s.setBlk k b).log = s.log
      ∧ (s.setBlk k b).res = s.res ∧ (s.setBlk k b).faults = s.faults ∧ (s.setBlk k b).refused = s.refused
      ∧ (s.setBlk k b).sched = s.sched ∧ (s.setBlk k b).moves = s.moves ∧ (s.setBlk k b).order = s.order := by
  exact ⟨rfl, rfl, rfl, rfl, rfl, rfl, rfl, rfl, rfl, rfl, rfl, rfl, rfl, rfl, rfl⟩

@[simp] theorem storeFrame_fields (s : State) (a : Word) (f : FrameSize) (v : Word) :
    (s.storeFrame a f v).cfg = s.cfg ∧ (s.storeFrame a f v).nvic = s.nvic ∧ (s.storeFrame a f v).exti = s.exti
      ∧ (s.storeFrame a f v).exticr = s.exticr ∧ (s.storeFrame a f v).gpio = s.gpio
      ∧ (s.storeFrame a f v).extReq = s.extReq ∧ (s.storeFrame a f v).spi = s.spi
      ∧ (s.storeFrame a f v).stack = s.stack ∧ (s.storeFrame a f v).log = s.log ∧ (s.storeFrame a f v).res = s.res
      ∧ (s.storeFrame a f v).faults = s.faults ∧ (s.storeFrame a f v).refused = s.refused
      ∧ (s.storeFrame a f v).sched = s.sched ∧ (s.storeFrame a f v).moves = s.moves
      ∧ (s.storeFrame a f v).order = s.order := by
  exact ⟨rfl, rfl, rfl, rfl, rfl, rfl, rfl, rfl, rfl, rfl, rfl, rfl, rfl, rfl, rfl⟩

@[simp] theorem setTop_fields (s : State) (t : Thread) :
    (s.setTop t).cfg = s.cfg ∧ (s.setTop t).nvic = s.nvic ∧ (s.setTop t).exti = s.exti
      ∧ (s.setTop t).exticr = s.exticr ∧ (s.setTop t).gpio = s.gpio ∧ (s.setTop t).extReq = s.extReq
      ∧ (s.setTop t).spi = s.spi ∧ (s.setTop t).mem = s.mem ∧ (s.setTop t).log = s.log ∧ (s.setTop t).res = s.res
      ∧ (s.setTop t).faults = s.faults ∧ (s.setTop t).refused = s.refused ∧ (s.setTop t).sched = s.sched
      ∧ (s.setTop t).moves = s.moves ∧ (s.setTop t).order = s.order := by
  exact ⟨rfl, rfl, rfl, rfl, rfl, rfl, rfl, rfl, rfl, rfl, rfl, rfl, rfl, rfl, rfl⟩

@[simp] theorem goto_fields (s : State) (m : MState) :
    (s.goto m).cfg = s.cfg ∧ (s.goto m).nvic = s.nvic ∧ (s.goto m).exti = s.exti ∧ (s.goto m).exticr = s.exticr
      ∧ (s.goto m).gpio = s.gpio ∧ (s.goto m).extReq = s.extReq ∧ (s.goto m).spi = s.spi ∧ (s.goto m).mem = s.mem
      ∧ (s.goto m).log = s.log ∧ (s.goto m).res = s.res ∧ (s.goto m).faults = s.faults
      ∧ (s.goto m).refused = s.refused ∧ (s.goto m).sched = s.sched ∧ (s.goto m).moves = s.moves
      ∧ (s.goto m).order = s.order := by
  exact ⟨rfl, rfl, rfl, rfl, rfl, rfl, rfl, rfl, rfl, rfl, rfl, rfl, rfl, rfl, rfl⟩

@[simp] theorem complete_fields (s : State) :
    (s.complete).cfg = s.cfg ∧ (s.complete).nvic = s.nvic ∧ (s.complete).exti = s.exti
      ∧ (s.complete).exticr = s.exticr ∧ (s.complete).gpio = s.gpio ∧ (s.complete).extReq = s.extReq
      ∧ (s.complete).spi = s.spi ∧ (s.complete).mem = s.mem ∧ (s.complete).log = s.log ∧ (s.complete).res = s.res
      ∧ (s.complete).faults = s.faults ∧ (s.complete).refused = s.refused ∧ (s.complete).sched = s.sched
      ∧ (s.complete).moves = s.moves ∧ (s.complete).order = s.order := by
  exact ⟨rfl, rfl, rfl, rfl, rfl, rfl, rfl, rfl, rfl, rfl, rfl, rfl, rfl, rfl, rfl⟩

@[simp] theorem stick_fields (s : State) (w : Stuck) :
    (s.stick w).cfg = s.cfg ∧ (s.stick w).nvic = s.nvic ∧ (s.stick w).exti = s.exti ∧ (s.stick w).exticr = s.exticr
      ∧ (s.stick w).gpio = s.gpio ∧ (s.stick w).extReq = s.extReq ∧ (s.stick w).spi = s.spi
      ∧ (s.stick w).mem = s.mem ∧ (s.stick w).log = s.log ∧ (s.stick w).res = s.res ∧ (s.stick w).faults = s.faults
      ∧ (s.stick w).refused = s.refused ∧ (s.stick w).sched = s.sched ∧ (s.stick w).moves = s.moves
      ∧ (s.stick w).order = s.order := by
  exact ⟨rfl, rfl, rfl, rfl, rfl, rfl, rfl, rfl, rfl, rfl, rfl, rfl, rfl, rfl, rfl⟩

@[simp] theorem splice_fields (s : State) (m : MState) (p : List Word) :
    (s.splice m p).cfg = s.cfg ∧ (s.splice m p).nvic = s.nvic ∧ (s.splice m p).exti = s.exti
      ∧ (s.splice m p).exticr = s.exticr ∧ (s.splice m p).gpio = s.gpio ∧ (s.splice m p).extReq = s.extReq
      ∧ (s.splice m p).spi = s.spi ∧ (s.splice m p).mem = s.mem ∧ (s.splice m p).log = s.log
      ∧ (s.splice m p).res = s.res ∧ (s.splice m p).faults = s.faults ∧ (s.splice m p).refused = s.refused
      ∧ (s.splice m p).sched = s.sched ∧ (s.splice m p).moves = s.moves ∧ (s.splice m p).order = s.order := by
  exact ⟨rfl, rfl, rfl, rfl, rfl, rfl, rfl, rfl, rfl, rfl, rfl, rfl, rfl, rfl, rfl⟩

@[simp] theorem raise_fields (s : State) (c : FaultCode) :
    (s.raise c).cfg = s.cfg ∧ (s.raise c).nvic = s.nvic ∧ (s.raise c).exti = s.exti ∧ (s.raise c).exticr = s.exticr
      ∧ (s.raise c).gpio = s.gpio ∧ (s.raise c).extReq = s.extReq ∧ (s.raise c).spi = s.spi
      ∧ (s.raise c).mem = s.mem ∧ (s.raise c).log = s.log ∧ (s.raise c).res = s.res
      ∧ (s.raise c).refused = s.refused ∧ (s.raise c).sched = s.sched ∧ (s.raise c).moves = s.moves
      ∧ (s.raise c).order = s.order := by
  exact ⟨rfl, rfl, rfl, rfl, rfl, rfl, rfl, rfl, rfl, rfl, rfl, rfl, rfl, rfl⟩

@[simp] theorem refuse_fields (s : State) :
    (s.refuse).cfg = s.cfg ∧ (s.refuse).nvic = s.nvic ∧ (s.refuse).exti = s.exti ∧ (s.refuse).exticr = s.exticr
      ∧ (s.refuse).gpio = s.gpio ∧ (s.refuse).extReq = s.extReq ∧ (s.refuse).spi = s.spi ∧ (s.refuse).mem = s.mem
      ∧ (s.refuse).log = s.log ∧ (s.refuse).res = s.res ∧ (s.refuse).faults = s.faults ∧ (s.refuse).sched = s.sched
      ∧ (s.refuse).moves = s.moves ∧ (s.refuse).order = s.order := by
  exact ⟨rfl, rfl, rfl, rfl, rfl, rfl, rfl, rfl, rfl, rfl, rfl, rfl, rfl, rfl⟩

@[simp] theorem result_fields (s : State) (v : ResultValue) :
    (s.result v).cfg = s.cfg ∧ (s.result v).nvic = s.nvic ∧ (s.result v).exti = s.exti
      ∧ (s.result v).exticr = s.exticr ∧ (s.result v).gpio = s.gpio ∧ (s.result v).extReq = s.extReq
      ∧ (s.result v).spi = s.spi ∧ (s.result v).mem = s.mem ∧ (s.result v).stack = s.stack
      ∧ (s.result v).log = s.log ∧ (s.result v).faults = s.faults ∧ (s.result v).refused = s.refused
      ∧ (s.result v).sched = s.sched ∧ (s.result v).moves = s.moves ∧ (s.result v).order = s.order := by
  exact ⟨rfl, rfl, rfl, rfl, rfl, rfl, rfl, rfl, rfl, rfl, rfl, rfl, rfl, rfl, rfl⟩

@[simp] theorem continueDispatch_fields (s : State) (l : List Handler) :
    (s.continueDispatch l).cfg = s.cfg ∧ (s.continueDispatch l).nvic = s.nvic ∧ (s.continueDispatch l).exti = s.exti
      ∧ (s.continueDispatch l).exticr = s.exticr ∧ (s.continueDispatch l).gpio = s.gpio
      ∧ (s.continueDispatch l).extReq = s.extReq ∧ (s.continueDispatch l).spi = s.spi
      ∧ (s.continueDispatch l).mem = s.mem ∧ (s.continueDispatch l).log = s.log ∧ (s.continueDispatch l).res = s.res
      ∧ (s.continueDispatch l).faults = s.faults ∧ (s.continueDispatch l).refused = s.refused
      ∧ (s.continueDispatch l).sched = s.sched ∧ (s.continueDispatch l).moves = s.moves
      ∧ (s.continueDispatch l).order = s.order := by
  cases l <;> exact ⟨rfl, rfl, rfl, rfl, rfl, rfl, rfl, rfl, rfl, rfl, rfl, rfl, rfl, rfl, rfl⟩

@[simp] theorem emit_fields (s : State) (k : Nat) (ev : Event) :
    (s.emit k ev).cfg = s.cfg ∧ (s.emit k ev).nvic = s.nvic ∧ (s.emit k ev).exti = s.exti
      ∧ (s.emit k ev).exticr = s.exticr ∧ (s.emit k ev).gpio = s.gpio ∧ (s.emit k ev).extReq = s.extReq
      ∧ (s.emit k ev).spi = s.spi ∧ (s.emit k ev).mem = s.mem ∧ (s.emit k ev).stack = s.stack
      ∧ (s.emit k ev).res = s.res ∧ (s.emit k ev).faults = s.faults ∧ (s.emit k ev).refused = s.refused
      ∧ (s.emit k ev).sched = s.sched ∧ (s.emit k ev).moves = s.moves ∧ (s.emit k ev).order = s.order := by
  exact ⟨rfl, rfl, rfl, rfl, rfl, rfl, rfl, rfl, rfl, rfl, rfl, rfl, rfl, rfl, rfl⟩

@[simp] theorem runCallback_fields (s : State) (p : List Word) (l : List Handler) :
    (s.runCallback p l).cfg = s.cfg ∧ (s.runCallback p l).nvic = s.nvic ∧ (s.runCallback p l).exti = s.exti
      ∧ (s.runCallback p l).exticr = s.exticr ∧ (s.runCallback p l).gpio = s.gpio
      ∧ (s.runCallback p l).extReq = s.extReq ∧ (s.runCallback p l).spi = s.spi ∧ (s.runCallback p l).mem = s.mem
      ∧ (s.runCallback p l).log = s.log ∧ (s.runCallback p l).res = s.res ∧ (s.runCallback p l).faults = s.faults
      ∧ (s.runCallback p l).refused = s.refused ∧ (s.runCallback p l).sched = s.sched
      ∧ (s.runCallback p l).moves = s.moves ∧ (s.runCallback p l).order = s.order := by
  cases p <;> simp [State.runCallback]

@[simp] theorem notify_fields (s : State) (k : Nat) (ev : Event) (l : List Handler) :
    (s.notify k ev l).cfg = s.cfg ∧ (s.notify k ev l).nvic = s.nvic ∧ (s.notify k ev l).exti = s.exti
      ∧ (s.notify k ev l).exticr = s.exticr ∧ (s.notify k ev l).gpio = s.gpio ∧ (s.notify k ev l).extReq = s.extReq
      ∧ (s.notify k ev l).spi = s.spi ∧ (s.notify k ev l).mem = s.mem ∧ (s.notify k ev l).res = s.res
      ∧ (s.notify k ev l).faults = s.faults ∧ (s.notify k ev l).refused = s.refused
      ∧ (s.notify k ev l).sched = s.sched ∧ (s.notify k ev l).moves = s.moves ∧ (s.notify k ev l).order = s.order := by
  simp [State.notify]

@[simp] theorem afterRead_fields (s : State) (r : Reg) :
    (s.afterRead r).cfg = s.cfg ∧ (s.afterRead r).nvic = s.nvic ∧ (s.afterRead r).exti = s.exti
      ∧ (s.afterRead r).exticr = s.exticr ∧ (s.afterRead r).gpio = s.gpio ∧ (s.afterRead r).extReq = s.extReq
      ∧ (s.afterRead r).mem = s.mem ∧ (s.afterRead r).stack = s.stack ∧ (s.afterRead r).log = s.log
      ∧ (s.afterRead r).res = s.res ∧ (s.afterRead r).faults = s.faults ∧ (s.afterRead r).refused = s.refused
      ∧ (s.afterRead r).sched = s.sched ∧ (s.afterRead r).moves = s.moves ∧ (s.afterRead r).order = s.order := by
  rcases r with _ | _ | _ | _ | _ | _ | ⟨_, _ | _ | _ | _⟩ <;> exact ⟨rfl, rfl, rfl, rfl, rfl, rfl, rfl, rfl, rfl, rfl, rfl, rfl, rfl, rfl, rfl⟩

@[simp] theorem regWrite_fields (s : State) (r : Reg) (v : Word) :
    (s.regWrite r v).cfg = s.cfg ∧ (s.regWrite r v).extReq = s.extReq ∧ (s.regWrite r v).mem = s.mem
      ∧ (s.regWrite r v).stack = s.stack ∧ (s.regWrite r v).log = s.log ∧ (s.regWrite r v).res = s.res
      ∧ (s.regWrite r v).faults = s.faults ∧ (s.regWrite r v).refused = s.refused ∧ (s.regWrite r v).sched = s.sched
      ∧ (s.regWrite r v).moves = s.moves ∧ (s.regWrite r v).order = s.order := by
  cases r <;> exact ⟨rfl, rfl, rfl, rfl, rfl, rfl, rfl, rfl, rfl, rfl, rfl⟩

@[simp] theorem takeInterrupt_fields (s : State) (i : Nat) :
    (s.takeInterrupt i).cfg = s.cfg ∧ (s.takeInterrupt i).exti = s.exti ∧ (s.takeInterrupt i).exticr = s.exticr
      ∧ (s.takeInterrupt i).gpio = s.gpio ∧ (s.takeInterrupt i).extReq = s.extReq ∧ (s.takeInterrupt i).spi = s.spi
      ∧ (s.takeInterrupt i).mem = s.mem ∧ (s.takeInterrupt i).log = s.log ∧ (s.takeInterrupt i).res = s.res
      ∧ (s.takeInterrupt i).faults = s.faults ∧ (s.takeInterrupt i).refused = s.refused
      ∧ (s.takeInterrupt i).sched = s.sched ∧ (s.takeInterrupt i).moves = s.moves
      ∧ (s.takeInterrupt i).order = s.order := by
  exact ⟨rfl, rfl, rfl, rfl, rfl, rfl, rfl, rfl, rfl, rfl, rfl, rfl, rfl, rfl⟩

@[simp] theorem returnInterrupt_fields (s : State) :
    (s.returnInterrupt).cfg = s.cfg ∧ (s.returnInterrupt).exti = s.exti ∧ (s.returnInterrupt).exticr = s.exticr
      ∧ (s.returnInterrupt).gpio = s.gpio ∧ (s.returnInterrupt).extReq = s.extReq ∧ (s.returnInterrupt).spi = s.spi
      ∧ (s.returnInterrupt).mem = s.mem ∧ (s.returnInterrupt).log = s.log ∧ (s.returnInterrupt).res = s.res
      ∧ (s.returnInterrupt).faults = s.faults ∧ (s.returnInterrupt).refused = s.refused
      ∧ (s.returnInterrupt).sched = s.sched ∧ (s.returnInterrupt).moves = s.moves
      ∧ (s.returnInterrupt).order = s.order := by
  unfold State.returnInterrupt
  split <;> exact ⟨rfl, rfl, rfl, rfl, rfl, rfl, rfl, rfl, rfl, rfl, rfl, rfl, rfl, rfl⟩

@[simp] theorem pendSource_fields (s : State) (i : Nat) :
    (s.pendSource i).cfg = s.cfg ∧ (s.pendSource i).exti = s.exti ∧ (s.pendSource i).exticr = s.exticr
      ∧ (s.pendSource i).gpio = s.gpio ∧ (s.pendSource i).extReq = s.extReq ∧ (s.pendSource i).spi = s.spi
      ∧ (s.pendSource i).mem = s.mem ∧ (s.pendSource i).stack = s.stack ∧ (s.pendSource i).log = s.log
      ∧ (s.pendSource i).res = s.res ∧ (s.pendSource i).faults = s.faults ∧ (s.pendSource i).refused = s.refused
      ∧ (s.pendSource i).sched = s.sched ∧ (s.pendSource i).moves = s.moves ∧ (s.pendSource i).order = s.order := by
  simp only [State.pendSource]
  split <;> exact ⟨rfl, rfl, rfl, rfl, rfl, rfl, rfl, rfl, rfl, rfl, rfl, rfl, rfl, rfl, rfl⟩

@[simp] theorem enterChosen_fields (s : State) :
    (s.enterChosen).cfg = s.cfg ∧ (s.enterChosen).exti = s.exti ∧ (s.enterChosen).exticr = s.exticr
      ∧ (s.enterChosen).gpio = s.gpio ∧ (s.enterChosen).extReq = s.extReq ∧ (s.enterChosen).spi = s.spi
      ∧ (s.enterChosen).mem = s.mem ∧ (s.enterChosen).log = s.log ∧ (s.enterChosen).res = s.res
      ∧ (s.enterChosen).faults = s.faults ∧ (s.enterChosen).refused = s.refused ∧ (s.enterChosen).sched = s.sched
      ∧ (s.enterChosen).moves = s.moves ∧ (s.enterChosen).order = s.order := by
  simp only [State.enterChosen]
  split <;> exact ⟨rfl, rfl, rfl, rfl, rfl, rfl, rfl, rfl, rfl, rfl, rfl, rfl, rfl, rfl⟩

@[simp] theorem changePin_fields (s : State) (p : Fin 9) (n : Fin 16) :
    (s.changePin p n).cfg = s.cfg ∧ (s.changePin p n).nvic = s.nvic ∧ (s.changePin p n).exticr = s.exticr
      ∧ (s.changePin p n).extReq = s.extReq ∧ (s.changePin p n).spi = s.spi ∧ (s.changePin p n).mem = s.mem
      ∧ (s.changePin p n).stack = s.stack ∧ (s.changePin p n).log = s.log ∧ (s.changePin p n).res = s.res
      ∧ (s.changePin p n).faults = s.faults ∧ (s.changePin p n).refused = s.refused
      ∧ (s.changePin p n).sched = s.sched ∧ (s.changePin p n).moves = s.moves ∧ (s.changePin p n).order = s.order := by
  simp only [State.changePin]
  split <;> exact ⟨rfl, rfl, rfl, rfl, rfl, rfl, rfl, rfl, rfl, rfl, rfl, rfl, rfl, rfl⟩

@[simp] theorem setRequest_fields (s : State) (i : Nat) (b : Bool) :
    (s.setRequest i b).cfg = s.cfg ∧ (s.setRequest i b).nvic = s.nvic ∧ (s.setRequest i b).exti = s.exti
      ∧ (s.setRequest i b).exticr = s.exticr ∧ (s.setRequest i b).gpio = s.gpio ∧ (s.setRequest i b).spi = s.spi
      ∧ (s.setRequest i b).mem = s.mem ∧ (s.setRequest i b).stack = s.stack ∧ (s.setRequest i b).log = s.log
      ∧ (s.setRequest i b).res = s.res ∧ (s.setRequest i b).faults = s.faults
      ∧ (s.setRequest i b).refused = s.refused ∧ (s.setRequest i b).sched = s.sched
      ∧ (s.setRequest i b).moves = s.moves ∧ (s.setRequest i b).order = s.order := by
  simp only [State.setRequest]
  split <;> exact ⟨rfl, rfl, rfl, rfl, rfl, rfl, rfl, rfl, rfl, rfl, rfl, rfl, rfl, rfl, rfl⟩

@[simp] theorem spiEvent_fields (s : State) (k : Nat) (e : SpiEvent) :
    (s.spiEvent k e).cfg = s.cfg ∧ (s.spiEvent k e).nvic = s.nvic ∧ (s.spiEvent k e).exti = s.exti
      ∧ (s.spiEvent k e).exticr = s.exticr ∧ (s.spiEvent k e).gpio = s.gpio ∧ (s.spiEvent k e).extReq = s.extReq
      ∧ (s.spiEvent k e).mem = s.mem ∧ (s.spiEvent k e).stack = s.stack ∧ (s.spiEvent k e).log = s.log
      ∧ (s.spiEvent k e).res = s.res ∧ (s.spiEvent k e).faults = s.faults ∧ (s.spiEvent k e).refused = s.refused
      ∧ (s.spiEvent k e).sched = s.sched ∧ (s.spiEvent k e).moves = s.moves ∧ (s.spiEvent k e).order = s.order := by
  simp only [State.spiEvent]
  split <;> exact ⟨rfl, rfl, rfl, rfl, rfl, rfl, rfl, rfl, rfl, rfl, rfl, rfl, rfl, rfl, rfl⟩

@[simp] theorem placeProgram_fields (s : State) (p : List Word) :
    (s.placeProgram p).cfg = s.cfg ∧ (s.placeProgram p).nvic = s.nvic ∧ (s.placeProgram p).exti = s.exti
      ∧ (s.placeProgram p).exticr = s.exticr ∧ (s.placeProgram p).gpio = s.gpio
      ∧ (s.placeProgram p).extReq = s.extReq ∧ (s.placeProgram p).spi = s.spi ∧ (s.placeProgram p).mem = s.mem
      ∧ (s.placeProgram p).log = s.log ∧ (s.placeProgram p).res = s.res ∧ (s.placeProgram p).faults = s.faults
      ∧ (s.placeProgram p).refused = s.refused ∧ (s.placeProgram p).sched = s.sched
      ∧ (s.placeProgram p).moves = s.moves ∧ (s.placeProgram p).order = s.order := by
  exact ⟨rfl, rfl, rfl, rfl, rfl, rfl, rfl, rfl, rfl, rfl, rfl, rfl, rfl, rfl, rfl⟩

/-- Reading and raising leave the controller's own fields in place; taking an interrupt keeps EN and IPR (R144). -/
@[simp] theorem takeInterrupt_nvic (s : State) (i : Nat) :
    (s.takeInterrupt i).nvic.en = s.nvic.en ∧ (s.takeInterrupt i).nvic.ipr = s.nvic.ipr := ⟨rfl, rfl⟩

@[simp] theorem returnInterrupt_nvic (s : State) :
    s.returnInterrupt.nvic.en = s.nvic.en ∧ s.returnInterrupt.nvic.pend = s.nvic.pend
      ∧ s.returnInterrupt.nvic.ipr = s.nvic.ipr := by
  unfold State.returnInterrupt
  split <;> exact ⟨rfl, rfl, rfl⟩

end Sys2Proof.Machine
end

