-- ==== Sys2Proof/Laws/Ops.lean ====
section
/-! SUPPORT. What each shared operation can do, said once: the position of the running context, device records,
register accesses, interrupts. -/

namespace Sys2Proof.Machine

/-! ## The running context -/

@[simp] theorem top_setTop (s : State) (t : Thread) : (s.setTop t).top = t := by
  unfold State.setTop State.top Stack.top Stack.setTop
  rcases h : s.stack.isrs with _ | ⟨i, l⟩ <;> simp

@[simp] theorem setTop_setTop (s : State) (t u : Thread) : (s.setTop t).setTop u = s.setTop u := by
  unfold State.setTop Stack.setTop
  rcases h : s.stack.isrs with _ | ⟨i, l⟩ <;> simp

@[simp] theorem setTop_top (s : State) : s.setTop s.top = s := by
  obtain ⟨cfg, nvic, exti, exticr, gpio, extReq, spi, mem, ⟨fg, isrs⟩, log, res, faults, refused, sched, moves, order⟩ := s
  cases isrs <;> rfl

@[simp] theorem kind_setTop (s : State) (t : Thread) : (s.setTop t).stack.kind = s.stack.kind := by
  unfold State.setTop Stack.setTop Stack.kind
  rcases h : s.stack.isrs with _ | ⟨i, l⟩ <;> simp

@[simp] theorem mstate_goto (s : State) (m : MState) : (s.goto m).mstate = m := by
  simp [State.mstate, State.goto]

@[simp] theorem goto_goto (s : State) (m m' : MState) : (s.goto m).goto m' = s.goto m' := by
  simp [State.goto]

/-- Completing a command forgets the position it completes from. -/
@[simp] theorem complete_goto (s : State) (m : MState) : (s.goto m).complete = s.complete := by
  simp [State.goto, State.complete, Thread.complete, Frame.advance]

@[simp] theorem splice_goto (s : State) (m m' : MState) (p : List Word) :
    (s.goto m).splice m' p = s.splice m' p := by
  simp [State.goto, State.splice]

@[simp] theorem continueDispatch_goto (s : State) (m : MState) (l : List Handler) :
    (s.goto m).continueDispatch l = s.continueDispatch l := by
  cases l <;> simp [State.continueDispatch]

@[simp] theorem emit_goto (s : State) (m : MState) (k : Nat) (ev : Event) :
    (s.goto m).emit k ev = (s.emit k ev).goto m := rfl

@[simp] theorem notify_goto (s : State) (m : MState) (k : Nat) (ev : Event) (l : List Handler) :
    (s.goto m).notify k ev l = s.notify k ev l := by
  simp only [State.notify, emit_goto, goto_fields]
  cases callbackOf s.cfg k ev <;> simp [State.runCallback]

@[simp] theorem kind_goto (s : State) (m : MState) : (s.goto m).stack.kind = s.stack.kind := by
  simp [State.goto]

@[simp] theorem pc_goto (s : State) (m : MState) : (s.goto m).top.cur.pc = s.top.cur.pc := by
  simp [State.goto]

@[simp] theorem result_goto (s : State) (m : MState) (v : ResultValue) :
    (s.goto m).result v = (s.result v).goto m := by
  unfold State.result
  rw [kind_goto, pc_goto]
  rfl

/-! ## Device operations do not see the position -/

@[simp] theorem regValue_goto (s : State) (m : MState) (r : Reg) : (s.goto m).regValue r = s.regValue r := by
  cases r <;> rfl

@[simp] theorem afterRead_goto (s : State) (m : MState) (r : Reg) :
    (s.goto m).afterRead r = (s.afterRead r).goto m := by
  rcases r with _ | _ | _ | _ | _ | _ | ⟨_, _ | _ | _ | _⟩ <;> rfl

@[simp] theorem regWrite_goto (s : State) (m : MState) (r : Reg) (v : Word) :
    (s.goto m).regWrite r v = (s.regWrite r v).goto m := by
  cases r <;> rfl

@[simp] theorem setBuf_goto (s : State) (m : MState) (k : Nat) (d : Direction) (v : Word) :
    (s.goto m).setBuf k d v = (s.setBuf k d v).goto m := rfl

@[simp] theorem setLen_goto (s : State) (m : MState) (k : Nat) (d : Direction) (v : Word) :
    (s.goto m).setLen k d v = (s.setLen k d v).goto m := rfl

@[simp] theorem setSt_goto (s : State) (m : MState) (k : Nat) (d : Direction) (v : TransferState) :
    (s.goto m).setSt k d v = (s.setSt k d v).goto m := rfl

@[simp] theorem setBlk_goto (s : State) (m : MState) (k : Nat) (b : Bool) :
    (s.goto m).setBlk k b = (s.setBlk k b).goto m := rfl

@[simp] theorem storeFrame_goto (s : State) (m : MState) (a : Word) (f : FrameSize) (v : Word) :
    (s.goto m).storeFrame a f v = (s.storeFrame a f v).goto m := rfl

@[simp] theorem inst_goto (s : State) (m : MState) (k : Nat) : (s.goto m).inst k = s.inst k := rfl

@[simp] theorem tc_goto (s : State) (m : MState) (k : Nat) (d : Direction) : (s.goto m).tc k d = s.tc k d := rfl

@[simp] theorem nSpi_goto (s : State) (m : MState) : (s.goto m).nSpi = s.nSpi := rfl

@[simp] theorem ramOk_goto (s : State) (m : MState) (a : Word) (f : FrameSize) :
    (s.goto m).ramOk a f = s.ramOk a f := rfl

/-! ## Device records -/

@[simp] theorem nSpi_mapInst (s : State) (k : Nat) (f : Spi → Spi) : (s.mapInst k f).nSpi = s.nSpi := by
  simp [State.nSpi, State.mapInst, State.setInst]

/-- Changing one instance changes that instance alone. -/
theorem inst_mapInst (s : State) (k : Nat) (f : Spi → Spi) (j : Nat) (h : k < s.nSpi) :
    (s.mapInst k f).inst j = if k = j then f (s.inst j) else s.inst j := by
  unfold State.nSpi at h
  simp only [State.inst, State.mapInst, State.setInst]
  grind

/-- The changed instance itself. -/
theorem inst_mapInst_self (s : State) (k : Nat) (f : Spi → Spi) (h : k < s.nSpi) :
    (s.mapInst k f).inst k = f (s.inst k) := by
  simp [inst_mapInst s k f k h]

@[simp] theorem tc_setTc (x : Spi) (d e : Direction) (t : TransferCtx) :
    (x.setTc d t).tc e = if d = e then t else x.tc e := by
  cases d <;> cases e <;> rfl

/-- Writing a port changes that port alone. -/
theorem port_setPort (s : State) (p : Nat) (x : Port) (q : Nat) (h : p < 9) :
    (s.setPort p x).port q = if p = q then x else s.port q := by
  simp only [State.port, State.setPort]
  grind

/-! ## Register accesses (20_memory.md R48 to R50) -/

/-- A write of `ISER` for source `j` sets `EN[j]` alone (10_state.md R16). -/
theorem enabled_set (s : State) (j : Nat) (h : j < s.cfg.nIrq) (i : Nat) :
    (s.regWrite (.iser (bankOf j)) (oneHot (bitOf j))).enabled i = (s.enabled i || decide (i = j)) := by
  have hn : (s.cfg.nIrq : Nat) ≤ 240 := Nat.le_of_lt_succ s.cfg.nIrq.isLt
  simp only [State.enabled, State.regWrite, BitVec.getLsbD_or, BitVec.getLsbD_and, getLsbD_bankBits_oneHot,
    getLsbD_presentSources _ _ hn]
  grind

/-- A write of `ICER` for source `j` clears `EN[j]` alone (10_state.md R17). -/
theorem enabled_clear (s : State) (j : Nat) (h : j < s.cfg.nIrq) (i : Nat) :
    (s.regWrite (.icer (bankOf j)) (oneHot (bitOf j))).enabled i = (s.enabled i && !decide (i = j)) := by
  have hn : (s.cfg.nIrq : Nat) ≤ 240 := Nat.le_of_lt_succ s.cfg.nIrq.isLt
  have h1 : 240 ≤ i → s.nvic.en.getLsbD i = false := BitVec.getLsbD_of_ge _ i
  simp only [State.enabled, State.regWrite, BitVec.getLsbD_and, BitVec.getLsbD_not, getLsbD_bankBits_oneHot,
    getLsbD_presentSources _ _ hn]
  grind

/-- Only `ISER` and `ICER` writes change EN; no register write changes PEND or ACT (10_state.md R15, R20). -/
theorem regWrite_nvic (s : State) (r : Reg) (v : Word) :
    (s.regWrite r v).nvic.pend = s.nvic.pend ∧ (s.regWrite r v).nvic.act = s.nvic.act
      ∧ ((∀ b, r ≠ .iser b) → (∀ b, r ≠ .icer b) → (s.regWrite r v).nvic.en = s.nvic.en)
      ∧ ((∀ q, r ≠ .ipr q) → (s.regWrite r v).nvic.ipr = s.nvic.ipr) := by
  cases r <;> simp [State.regWrite]

/-- A read changes nothing but an SPI instance, and that only through `SR` and `DR` (20_memory.md R50). -/
theorem afterRead_eq (s : State) (r : Reg) :
    s.afterRead r = s ∨ (∃ k, r = .spi k .sr ∧ s.afterRead r = s.mapInst k (Spi.afterSrRead s.cfg.pos))
      ∨ ∃ k, r = .spi k .dr ∧ s.afterRead r = s.mapInst k (Spi.afterDrRead s.cfg.pos) := by
  rcases r with _ | _ | _ | _ | _ | _ | ⟨_, _ | _ | _ | _⟩ <;> simp [State.afterRead]

/-! ## Interrupts (60_exceptions.md R142 to R145) -/

/-- Taking source `i` clears its pending bit, sets its active bit, and touches no other source (R144). -/
theorem takeInterrupt_bits (s : State) (i j : Nat) (h : i < 240) :
    (s.takeInterrupt i).pending j = (s.pending j && !decide (j = i))
      ∧ (s.takeInterrupt i).active j = (s.active j || decide (j = i)) := by
  have h1 : 240 ≤ j → s.nvic.pend.getLsbD j = false := BitVec.getLsbD_of_ge _ j
  have h2 : 240 ≤ j → s.nvic.act.getLsbD j = false := BitVec.getLsbD_of_ge _ j
  simp only [State.pending, State.active, State.takeInterrupt, BitVec.getLsbD_and, BitVec.getLsbD_or,
    BitVec.getLsbD_not, getLsbD_sourceBit]
  constructor <;> grind

/-- `leastActive` is a lower bound of the active priorities, at most `THREAD`, and attained (R42). -/
theorem leastActive_spec (s : State) (l : List Nat) :
    s.leastActive l ≤ threadPriority ∧ (∀ i ∈ l, s.active i = true → s.leastActive l ≤ s.prio i)
      ∧ (s.leastActive l = threadPriority ∨ ∃ i ∈ l, s.active i = true ∧ s.leastActive l = s.prio i) := by
  induction l with
  | nil => simp [State.leastActive]
  | cons i l ih =>
    obtain ⟨h1, h2, h3⟩ := ih
    simp only [State.leastActive]
    split
    · refine ⟨by omega, ?_, ?_⟩
      · intro j hj ha
        rcases List.mem_cons.mp hj with rfl | hj
        · omega
        · have := h2 j hj ha; omega
      · rcases Nat.le_total (s.prio i) (s.leastActive l) with h | h
        · exact .inr ⟨i, by simp, by assumption, by omega⟩
        · rcases h3 with h3 | ⟨j, hj, ha, he⟩
          · exact .inl (by omega)
          · exact .inr ⟨j, by simp [hj], ha, by omega⟩
    · refine ⟨h1, ?_, ?_⟩
      · intro j hj ha
        rcases List.mem_cons.mp hj with rfl | hj
        · simp_all
        · exact h2 j hj ha
      · rcases h3 with h3 | ⟨j, hj, ha, he⟩
        · exact .inl h3
        · exact .inr ⟨j, by simp [hj], ha, he⟩

/-- Every priority is below `THREAD` (R42). -/
theorem prio_lt_threadPriority (s : State) (i : Nat) : s.prio i < threadPriority := by
  rw [State.prio, BitVec.toNat_and]
  exact Nat.lt_of_le_of_lt Nat.and_le_right (by decide)

/-- `EXECPRI` depends on the active sources and their priorities alone (R42). -/
theorem leastActive_congr {s t : State} (ha : ∀ i, s.active i = t.active i) (hp : ∀ i, s.prio i = t.prio i)
    (l : List Nat) : s.leastActive l = t.leastActive l := by
  induction l with
  | nil => rfl
  | cons i l ih => rw [State.leastActive, State.leastActive, ha, hp, ih]

/-- The choice among a list depends on which sources are eligible and on the priorities alone. -/
theorem bestOf_congr {s t : State} {p q : Nat} (he : ∀ i, s.eligibleAt p i = t.eligibleAt q i)
    (hp : ∀ i, s.prio i = t.prio i) (l : List Nat) : s.bestOf p l = t.bestOf q l := by
  induction l with
  | nil => rfl
  | cons i l ih =>
    rw [State.bestOf, State.bestOf, ih, he]
    cases t.bestOf q l with
    | none => rfl
    | some j => rw [hp i]; simp only [hp j]

/-- Eligibility depends on the source's own bits, the active sources and the priorities alone (R143). -/
theorem eligible_congr {s t : State} (i : Nat) (he : s.enabled i = t.enabled i) (hq : s.pending i = t.pending i)
    (ha : ∀ j, s.active j = t.active j) (hp : ∀ j, s.prio j = t.prio j) (hn : s.cfg.nIrq = t.cfg.nIrq) :
    s.eligible i = t.eligible i := by
  have hx : s.execPri = t.execPri := by rw [State.execPri, State.execPri, hn, leastActive_congr ha hp]
  rw [State.eligible, State.eligible, State.eligibleAt, State.eligibleAt, he, hq, ha, hp, hx]

/-- The choice of R143 depends on the controller alone. -/
theorem chosen_congr {s t : State} (h : s.nvic = t.nvic) (hn : s.cfg.nIrq = t.cfg.nIrq) : s.chosen = t.chosen := by
  have ha : ∀ i, s.active i = t.active i := fun i => by rw [State.active, State.active, h]
  have hp : ∀ i, s.prio i = t.prio i := fun i => by rw [State.prio, State.prio, h]
  have he : s.execPri = t.execPri := by rw [State.execPri, State.execPri, hn, leastActive_congr ha hp]
  rw [State.chosen, State.chosen, hn]
  refine bestOf_congr (fun i => ?_) hp _
  rw [State.eligibleAt, State.eligibleAt, he, hp, ha, State.enabled, State.pending, h]
  rfl

/-- Nothing is chosen exactly when nothing of the list is eligible (R143). -/
theorem bestOf_eq_none (s : State) (pri : Nat) (l : List Nat) :
    s.bestOf pri l = none ↔ ∀ i ∈ l, s.eligibleAt pri i = false := by
  induction l with
  | nil => simp [State.bestOf]
  | cons i l ih =>
    rw [State.bestOf]
    cases h : s.bestOf pri l with
    | none =>
      rw [h] at ih
      cases he : s.eligibleAt pri i <;> simp_all
    | some j =>
      rw [h] at ih
      simp only [List.mem_cons, forall_eq_or_imp]
      constructor
      · intro hc
        split at hc <;> cases hc
      · intro hc
        exact nomatch ih.mpr hc.2

/-- No source is chosen exactly when no present source is eligible (R143). -/
theorem chosen_eq_none (s : State) : s.chosen = none ↔ ∀ i, i < s.cfg.nIrq.val → s.eligible i = false := by
  simp [State.chosen, bestOf_eq_none, State.eligible]

/-- A choice is from the list, eligible, and of the lowest priority number among the eligible (R143). -/
theorem bestOf_spec (s : State) (pri : Nat) (l : List Nat) (j : Nat) (h : s.bestOf pri l = some j) :
    j ∈ l ∧ s.eligibleAt pri j = true ∧ ∀ i ∈ l, s.eligibleAt pri i = true → s.prio j ≤ s.prio i := by
  induction l generalizing j with
  | nil => simp [State.bestOf] at h
  | cons i l ih =>
    simp only [State.bestOf] at h
    split at h
    · rename_i hn
      split at h
      · rename_i he
        obtain rfl : i = j := by simpa using h
        refine ⟨by simp, he, fun k hk hke => ?_⟩
        rcases List.mem_cons.mp hk with rfl | hk
        · exact Nat.le_refl _
        · exfalso
          clear ih h
          induction l with
          | nil => simp at hk
          | cons a l ih2 =>
            simp only [State.bestOf] at hn
            split at hn
            · split at hn
              · simp at hn
              · rcases List.mem_cons.mp hk with rfl | hk
                · simp_all
                · exact ih2 (by assumption) (by simp [hk]) hk
            · split at hn <;> simp at hn
      · simp at h
    · rename_i b hb
      obtain ⟨h1, h2, h3⟩ := ih b hb
      split at h
      · rename_i he
        simp only [Bool.and_eq_true, decide_eq_true_eq] at he
        obtain rfl : i = j := by simpa using h
        refine ⟨by simp, he.1, fun k hk hke => ?_⟩
        rcases List.mem_cons.mp hk with rfl | hk
        · exact Nat.le_refl _
        · exact Nat.le_trans he.2 (h3 k hk hke)
      · rename_i he
        obtain rfl : b = j := by simpa using h
        refine ⟨by simp [h1], h2, fun k hk hke => ?_⟩
        rcases List.mem_cons.mp hk with rfl | hk
        · simp only [Bool.and_eq_true, decide_eq_true_eq, not_and, hke, forall_const] at he
          omega
        · exact h3 k hk hke

/-- The source an entry step takes is present, enabled, pending, inactive and more urgent than `EXECPRI` (R143). -/
theorem chosen_spec (s : State) (i : Nat) (h : s.chosen = some i) :
    i < s.cfg.nIrq ∧ s.enabled i = true ∧ s.pending i = true ∧ s.active i = false ∧ s.prio i < s.execPri := by
  obtain ⟨h1, h2, -⟩ := bestOf_spec s _ _ i h
  simp only [State.eligibleAt, Bool.and_eq_true, Bool.not_eq_true', decide_eq_true_eq] at h2
  exact ⟨by simpa using h1, h2.1.1.1, h2.1.1.2, h2.1.2, h2.2⟩

end Sys2Proof.Machine
end

