-- ==== Sys2Proof/Laws/PerInstr.lean ====
section
/-! SUPPORT. Statements made per instruction. `WordCount`: a command is encoded in as many words as its opcode fixes
(30_encoding.md R81). -/

namespace Sys2Proof.Laws

theorem getLsbD_ff (i : Nat) : (0xFF : Word).getLsbD i = decide (i < 8) := by
  have h : ∀ j : Fin 32, (0xFF : Word).getLsbD j.val = decide (j.val < 8) := by decide
  by_cases hi : i < 32
  · exact h ⟨i, hi⟩
  · rw [BitVec.getLsbD_of_ge _ _ (by omega)]
    simp; omega

/-- A field shifted past the low byte leaves nothing in it. -/
theorem shifted_low (x : BitVec 8) (n : Nat) (hn : 8 ≤ n) : (x.setWidth 32 <<< n) &&& (0xFF : Word) = 0 := by
  refine BitVec.eq_of_getLsbD_eq fun i hi => ?_
  rw [BitVec.getLsbD_and, getLsbD_ff, BitVec.getLsbD_shiftLeft]
  by_cases h : i < 8
  · simp [show i < n by omega]
  · simp [h]

theorem or_and (x y m : Word) : (x ||| y) &&& m = (x &&& m) ||| (y &&& m) := by
  ext i hi; simp [Bool.and_or_distrib_right]

/-- The low byte of a command word is its opcode (R72). -/
theorem commandWord_low (op : Op) (a b c : BitVec 8) : commandWord op a b c &&& 0xFF = op.pattern := by
  have hp : op.pattern &&& 0xFF = op.pattern := by cases op <;> decide
  unfold commandWord
  rw [or_and, or_and, or_and, hp, shifted_low _ _ (by omega), shifted_low _ _ (by omega), shifted_low _ _ (by omega)]
  simp

/-- The length of a command is its opcode's (R81). -/
theorem commandLength_commandWord (op : Op) (a b c : BitVec 8) :
    commandLength (commandWord op a b c) = 1 + op.operands := by
  have h : opOfByte (commandWord op a b c) = some op := by
    simp only [opOfByte, commandWord_low]
    cases op <;> decide
  simp [commandLength, h]

/-- A command is encoded in `1 + NOPS(OP)` words (R81). -/
def WordCount.Statement (i : Instr) : Prop := (encode i).length = commandLength ((encode i).headD 0)

theorem WordCount.irqSetEnabled (index : BitVec 8) (enabled : Bool) :
    WordCount.Statement (.irqSetEnabled index enabled) := (commandLength_commandWord .irqSetEnabled _ _ _).symm
theorem WordCount.irqSetPriority (index priority : BitVec 8) :
    WordCount.Statement (.irqSetPriority index priority) := (commandLength_commandWord .irqSetPriority _ _ _).symm
theorem WordCount.extiConfigure (pin port trigger : BitVec 8) :
    WordCount.Statement (.extiConfigure pin port trigger) := (commandLength_commandWord .extiConfigure _ _ _).symm
theorem WordCount.extiHandle (pin : BitVec 8) :
    WordCount.Statement (.extiHandle pin) := (commandLength_commandWord .extiHandle _ _ _).symm
theorem WordCount.gpioConfigure (pin port mode : BitVec 8) (cfg : Word) :
    WordCount.Statement (.gpioConfigure pin port mode cfg) := (commandLength_commandWord .gpioConfigure _ _ _).symm
theorem WordCount.gpioReadPin (pin port : BitVec 8) :
    WordCount.Statement (.gpioReadPin pin port) := (commandLength_commandWord .gpioReadPin _ _ _).symm
theorem WordCount.gpioWritePin (pin port : BitVec 8) (value : Bool) :
    WordCount.Statement (.gpioWritePin pin port value) := (commandLength_commandWord .gpioWritePin _ _ _).symm
theorem WordCount.gpioTogglePin (pin port : BitVec 8) :
    WordCount.Statement (.gpioTogglePin pin port) := (commandLength_commandWord .gpioTogglePin _ _ _).symm
theorem WordCount.spiInit (inst : BitVec 8) (dff errie : Bool) (cr1cfg : Word) :
    WordCount.Statement (.spiInit inst dff errie cr1cfg) := (commandLength_commandWord .spiInit _ _ _).symm
theorem WordCount.spiTransmit (inst : BitVec 8) (buf len : Word) :
    WordCount.Statement (.spiTransmit inst buf len) := (commandLength_commandWord .spiTransmit _ _ _).symm
theorem WordCount.spiReceive (inst : BitVec 8) (buf len : Word) :
    WordCount.Statement (.spiReceive inst buf len) := (commandLength_commandWord .spiReceive _ _ _).symm
theorem WordCount.spiStartTx (inst : BitVec 8) (buf len : Word) :
    WordCount.Statement (.spiStartTx inst buf len) := (commandLength_commandWord .spiStartTx _ _ _).symm
theorem WordCount.spiStartRx (inst : BitVec 8) (buf len : Word) :
    WordCount.Statement (.spiStartRx inst buf len) := (commandLength_commandWord .spiStartRx _ _ _).symm
theorem WordCount.spiIrqHandle (inst : BitVec 8) :
    WordCount.Statement (.spiIrqHandle inst) := (commandLength_commandWord .spiIrqHandle _ _ _).symm
theorem WordCount.spiCloseTx (inst : BitVec 8) :
    WordCount.Statement (.spiCloseTx inst) := (commandLength_commandWord .spiCloseTx _ _ _).symm
theorem WordCount.spiCloseRx (inst : BitVec 8) :
    WordCount.Statement (.spiCloseRx inst) := (commandLength_commandWord .spiCloseRx _ _ _).symm

end Sys2Proof.Laws
end

