-- ==== Sys2Proof/Laws/Step.lean ====
section
/-! SUPPORT. What one step can do, said once. -/

namespace Sys2Proof.Machine

open Host (Outcome)

/-- A step returns from a completed interrupt context, or applies one move to the state that has drawn it. -/
theorem step_eq (s : State) :
    step s = if s.mustReturn then .next s.returnInterrupt
      else match s.sched with
        | m :: rest => applyMove m { s with sched := rest }
        | [] => applyMove (Config.freeMove s.moves) { s with moves := s.moves + 1 } := rfl

/-- Every step is a return or one move, whose state differs from `s` in the model's own choice fields alone. -/
theorem step_cases (s : State) :
    (s.mustReturn = true ∧ step s = .next s.returnInterrupt)
      ∨ ∃ m sched moves, s.mustReturn = false ∧ step s = applyMove m { s with sched := sched, moves := moves } := by
  rw [step_eq]
  by_cases h : s.mustReturn = true
  · exact .inl ⟨h, by rw [if_pos h]⟩
  · refine .inr ?_
    rw [if_neg h]
    rcases hs : s.sched with _ | ⟨m, rest⟩
    · exact ⟨_, s.sched, s.moves + 1, by simpa using h, by rw [hs]⟩
    · exact ⟨m, rest, s.moves, by simpa using h, by simp⟩

/-- A context that runs is neither stuck nor completed; it executes its decoded command or its word is refused
(30_encoding.md R78). -/
theorem runTop_cases (s : State) :
    ((s.top.stuck.isSome || s.top.completed) = true ∧ runTop s = .next s)
      ∨ (s.top.stuck = none ∧ ∃ i ws, decode s.fetchWords = .ok (i, ws) ∧ runTop s = exec i s)
      ∨ (s.top.stuck = none ∧ ∃ e, decode s.fetchWords = .error e ∧ runTop s = .next s.refuse) := by
  unfold runTop
  split
  · exact .inl ⟨by assumption, rfl⟩
  · rename_i h
    have hs : s.top.stuck = none := by
      cases hk : s.top.stuck <;> simp_all
    split
    · rename_i i ws hd
      exact .inr (.inl ⟨hs, i, ws, hd, rfl⟩)
    · rename_i e hd
      exact .inr (.inr ⟨hs, e, hd, rfl⟩)

theorem execRun_zero (i : Instr) (s : State) : execRun 0 i s = .next s := rfl

/-- One more micro-step of a command's run. -/
theorem execRun_succ {n : Nat} {i : Instr} {s t : State} (h : exec i s = .next t) :
    execRun (n + 1) i s = execRun n i t := by
  simp [execRun, h]

/-- Runs of a command compose. -/
theorem execRun_add {m n : Nat} {i : Instr} {s t : State} (h : execRun m i s = .next t) :
    execRun (m + n) i s = execRun n i t := by
  induction m generalizing s with
  | zero => obtain rfl : s = t := by simpa [execRun] using h
            simp
  | succ m ih =>
    rw [Nat.succ_add]
    rcases he : exec i s with u | r | r
    · rw [execRun_succ he] at h ⊢
      exact ih h
    · simp [execRun, he] at h
    · simp [execRun, he] at h

theorem Reaches.trans {s t u : State} (h : Reaches s t) (k : Reaches t u) : Reaches s u := by
  induction h with
  | refl => exact k
  | cons hs _ ih => exact .cons hs (ih k)

/-- An invariant that every step keeps holds along every run. -/
theorem Reaches.keeps {P : State → Prop} (hstep : ∀ s t, P s → step s = .next t → P t) {s t : State}
    (h : Reaches s t) (hs : P s) : P t := by
  induction h with
  | refl => exact hs
  | cons he _ ih => exact ih (hstep _ _ hs he)

/-! ## The end of a run (70_reset_and_hazards.md R180) -/

/-- The choice does not see the model's own choice fields. -/
theorem endedForGood_order (s : State) (o : Order) : ({ s with order := o } : State).endedForGood = s.endedForGood := by
  have h : ({ s with order := o } : State).chosen = s.chosen := chosen_congr rfl rfl
  simp only [State.endedForGood, State.ended, h]
  rfl

/-- Latching a source that is not enabled leaves a run ended for good. -/
theorem endedForGood_pendSource (s : State) (i : Nat) (h : s.endedForGood = true) :
    (s.pendSource i).endedForGood = true := by
  unfold State.pendSource
  split
  · rename_i hc
    simp only [State.endedForGood, State.ended, State.quiet, Bool.and_eq_true, Option.isNone_iff_eq_none,
      chosen_eq_none, List.all_eq_true, List.mem_range, Bool.not_eq_true', decide_eq_true_eq] at h hc ⊢
    obtain ⟨⟨⟨h1, h2⟩, h3⟩, h4⟩ := h
    refine ⟨⟨⟨h1, h2⟩, fun j hj => ?_⟩, h4⟩
    have hd : s.enabled i = false := by
      have := h4 i hc.1.1
      simpa [hc.1.2] using this
    by_cases e : j = i
    · subst e
      have : ({ s with nvic := { s.nvic with pend := s.nvic.pend ||| sourceBit j } } : State).enabled j = false := hd
      simp [State.eligible, State.eligibleAt, this]
    · rw [← h3 j hj]
      refine eligible_congr j rfl ?_ (fun _ => rfl) (fun _ => rfl) rfl
      simp [State.pending, getLsbD_sourceBit, e]
  · exact h

/-- From a state ended for good, every step but the environment's leaves it so, and changes nothing but pending bits and
the model's own choice fields: no request can arise. -/
theorem endedForGood_move (s : State) (m : Move) (h : s.endedForGood = true) (hm : Move.environment m = false) :
    ∃ t, applyMove m s = .next t ∧ t.endedForGood = true
      ∧ t = { s with order := t.order, nvic := { s.nvic with pend := t.nvic.pend } } := by
  have he := h
  simp only [State.endedForGood, State.ended, Bool.and_eq_true, Bool.or_eq_true, Option.isNone_iff_eq_none,
    List.isEmpty_iff] at he
  obtain ⟨⟨⟨h1, h2⟩, h3⟩, -⟩ := he
  cases m with
  | run o =>
    refine ⟨{ s with order := o }, ?_, by rw [endedForGood_order, h], rfl⟩
    have ht : ({ s with order := o } : State).top = s.stack.fg := by simp [State.top, Stack.top, h2]
    rw [applyMove, runTop, ht, if_pos]
    rcases h1 with h1 | h1 <;> simp [h1]
  | pend i =>
    refine ⟨s.pendSource i, rfl, endedForGood_pendSource s i h, ?_⟩
    unfold State.pendSource
    split <;> rfl
  | enter =>
    refine ⟨s, ?_, h, rfl⟩
    simp [applyMove, State.enterChosen, h3]
  | pinChange p n => cases hm
  | request i l => cases hm
  | spi k e => cases hm

/-- Where an enabled source requests and no context is on the stack, the latch makes one eligible: `quiet` asks for no
more than R180 does. -/
theorem pendSource_wakes (s : State) (i : Nat) (hs : s.stack.isrs = []) (ha : s.activeMatchesStack)
    (hi : i < s.cfg.nIrq.val) (he : s.enabled i = true) (hr : s.request i = true) :
    (s.pendSource i).eligible i = true := by
  have hact : ∀ j, s.active j = false := fun j => by simp [ha.2 j, State.sources, hs]
  have hn : i < 240 := by have := s.cfg.nIrq.isLt; omega
  have hx : s.execPri = threadPriority := by
    rcases (leastActive_spec s (List.range s.cfg.nIrq)).2.2 with h | ⟨j, -, h, -⟩
    · exact h
    · simp [hact j] at h
  rw [State.pendSource, if_pos (by simp [hi, hr, hact i])]
  generalize ht : ({ s with nvic := { s.nvic with pend := s.nvic.pend ||| sourceBit i } } : State) = t
  have hc : t.cfg = s.cfg := by subst ht; rfl
  have ha' : ∀ j, t.active j = s.active j := by subst ht; exact fun _ => rfl
  have hp : ∀ j, t.prio j = s.prio j := by subst ht; exact fun _ => rfl
  have h1 : t.execPri = s.execPri := by rw [State.execPri, State.execPri, hc, leastActive_congr ha' hp]
  have h2 : t.pending i = true := by subst ht; simp [State.pending, getLsbD_sourceBit, hn]
  have h3 : t.enabled i = true := by subst ht; exact he
  simp [State.eligible, State.eligibleAt, h1, h2, h3, ha' i, hact i, hx, prio_lt_threadPriority]

end Sys2Proof.Machine
end

