-- ==== Sys2Proof/Machine/Assembler.lean ====
section
/-! DEFINITION. Assembler syntax: the line that spells a command (30_encoding.md R82). -/

namespace Sys2Proof.Machine

/-- A port operand, written `A`..`I` for codes 0..8. -/
def portName (p : BitVec 8) : Option String := ["A", "B", "C", "D", "E", "F", "G", "H", "I"][p.toNat]?

/-- A trigger operand. -/
def triggerName : Trigger → String
  | .falling => "ft"
  | .rising => "rt"
  | .both => "rft"

/-- A GPIO mode operand. -/
def pinModeName : PinMode → String
  | .input => "in"
  | .output => "out"
  | .alternate => "af"
  | .analog => "an"
  | .interrupt t => "it_" ++ triggerName t

/-- A number, in decimal. -/
def number {w : Nat} (v : BitVec w) : String := toString v.toNat

/-- A one-bit operand. -/
def bitName (b : Bool) : String := if b then "1" else "0"

/-- A mnemonic and its operands, separated by commas. -/
def line (mnemonic : String) (operands : List String) : String := mnemonic ++ " " ++ String.intercalate ", " operands

/-- The line that spells a command; a port, trigger or mode code out of its range has no spelling (R82). -/
def asm : Instr → Option String
  | .irqSetEnabled i e => some (line "irq_set_enabled" [number i, bitName e])
  | .irqSetPriority i p => some (line "irq_set_priority" [number i, number p])
  | .extiConfigure n p t =>
    match portName p, triggerOfCode t with
    | some port, some t => some (line "exti_configure" [number n, port, triggerName t])
    | _, _ => none
  | .extiHandle n => some (line "exti_handle" [number n])
  | .gpioConfigure n p c cfg =>
    match portName p, pinModeOfCode c with
    | some port, some m =>
      some (line "gpio_configure" [number n, port, pinModeName m, "speed=" ++ number (cfgSpeed cfg),
        "pull=" ++ number (cfgPull cfg), "otype=" ++ number (cfgType cfg), "af=" ++ number (cfgAf cfg)])
    | _, _ => none
  | .gpioReadPin n p => (portName p).map (fun port => line "gpio_read_pin" [number n, port])
  | .gpioWritePin n p v => (portName p).map (fun port => line "gpio_write_pin" [number n, port, bitName v])
  | .gpioTogglePin n p => (portName p).map (fun port => line "gpio_toggle_pin" [number n, port])
  | .spiInit s dff errie cr1 =>
    some (line "spi_init" [number s, "dff=" ++ bitName dff, "errie=" ++ bitName errie, "cr1=" ++ number cr1])
  | .spiTransmit s b l => some (line "spi_transmit" [number s, number b, number l])
  | .spiReceive s b l => some (line "spi_receive" [number s, number b, number l])
  | .spiStartTx s b l => some (line "spi_start_tx" [number s, number b, number l])
  | .spiStartRx s b l => some (line "spi_start_rx" [number s, number b, number l])
  | .spiIrqHandle s => some (line "spi_irq_handle" [number s])
  | .spiCloseTx s => some (line "spi_close_tx" [number s])
  | .spiCloseRx s => some (line "spi_close_rx" [number s])

end Sys2Proof.Machine
end

