-- ==== Sys2Proof/Tests/Slice0.lean ====
section
/-! SUPPORT. Tests of single operations and micro-steps, whose expected values are the spec's own examples (40_nvic.md to
43_spi_engine.md, 95_test_vectors.md), and a witness for the hypotheses of each statement that has any. -/

namespace Sys2Proof.Tests

open Sys2Proof Sys2Proof.Machine
open Host (Outcome)

/-! ## Helpers -/

/-- The next state, if there is one. -/
def next? : Outcome State Fault Refusal → Option State
  | .next t => some t
  | .fault _ => none
  | .refused _ => none

/-- The command words decode to, if they do. -/
def decoded (ws : List Word) : Option Instr :=
  match decode ws with
  | .ok (i, []) => some i
  | .ok (_, _ :: _) => none
  | .error _ => none

/-- Why words do not decode. -/
def refusedFor (ws : List Word) : Option DecodeRefusal :=
  match decode ws with
  | .ok _ => none
  | .error e => some e

/-- The reset state. -/
abbrev s0 : State := State.reset

/-- The reset state with another SPI instance 0. -/
def withSpi (x : Spi) : State := s0.setInst 0 x

/-- SPI instance 0 after reset. -/
abbrev spi0 : Spi := Spi.reset FieldPos.suggested

/-- An instance with one direction BUSY on a one-byte frame. -/
def busySpi (d : Direction) (len : Word) : Spi := spi0.setTc d ⟨0x20000000, len, .busy⟩

/-- The reset state with FG preempted by source `i`, at priority 0. -/
def inIsr (i : Nat) : State := s0.takeInterrupt i

/-! ## Well-formed commands: each check refuses an ill-formed term (30_encoding.md R77) -/

theorem test_wf_cfg_all_fields : (Instr.gpioConfigure 255 255 255 0x00000F1F).wellFormed = true := by decide
theorem test_wf_cfg_bit5 : (Instr.gpioConfigure 3 3 1 0x00000020).wellFormed = false := by decide
theorem test_wf_cfg_bit7 : (Instr.gpioConfigure 3 3 1 0x00000080).wellFormed = false := by decide
theorem test_wf_cfg_bit12 : (Instr.gpioConfigure 3 3 1 0x00001000).wellFormed = false := by decide
theorem test_wf_cfg_bit31 : (Instr.gpioConfigure 3 3 1 0x80000000).wellFormed = false := by decide

/-! ## Decoding: words written out from R72 to R74, one a row (`C`, `B`, `A`, `OP` from the left) -/

theorem test_decode_irqSetEnabled : decoded [0x00012301] = some (.irqSetEnabled 35 true) := by decide
theorem test_decode_irqSetPriority : decoded [0x00020602] = some (.irqSetPriority 6 2) := by decide
theorem test_decode_extiConfigure : decoded [0x01020510] = some (.extiConfigure 5 2 1) := by decide
theorem test_decode_extiHandle : decoded [0x00000511] = some (.extiHandle 5) := by decide
theorem test_decode_gpioConfigure :
    decoded [0x02000920, 0x00000700] = some (.gpioConfigure 9 0 2 0x700) := by decide
theorem test_decode_gpioReadPin : decoded [0x00020521] = some (.gpioReadPin 5 2) := by decide
theorem test_decode_gpioWritePin : decoded [0x01000422] = some (.gpioWritePin 4 0 true) := by decide
theorem test_decode_gpioTogglePin : decoded [0x00080F23] = some (.gpioTogglePin 15 8) := by decide
theorem test_decode_spiInit : decoded [0x00010030, 0x00000034] = some (.spiInit 0 true false 0x34) := by decide
theorem test_decode_spiInit_errie : decoded [0x00020130, 0] = some (.spiInit 1 false true 0) := by decide
theorem test_decode_spiTransmit :
    decoded [0x00000031, 0x20000000, 2] = some (.spiTransmit 0 0x20000000 2) := by decide
theorem test_decode_spiReceive :
    decoded [0x00000332, 0x20000100, 4] = some (.spiReceive 3 0x20000100 4) := by decide
theorem test_decode_spiStartTx :
    decoded [0x00000033, 0x20000000, 4] = some (.spiStartTx 0 0x20000000 4) := by decide
theorem test_decode_spiStartRx :
    decoded [0x00000034, 0x20000100, 4] = some (.spiStartRx 0 0x20000100 4) := by decide
theorem test_decode_spiIrqHandle : decoded [0x00000135] = some (.spiIrqHandle 1) := by decide
theorem test_decode_spiCloseTx : decoded [0x00000036] = some (.spiCloseTx 0) := by decide
theorem test_decode_spiCloseRx : decoded [0x0000FF37] = some (.spiCloseRx 255) := by decide

theorem test_refuse_unassigned : refusedFor [0x00000003] = some .unassignedOpcode := by decide
theorem test_refuse_zero : refusedFor [0x00000000] = some .unassignedOpcode := by decide
theorem test_refuse_reserved_bit17 : refusedFor [0x00022301] = some .reservedBits := by decide
theorem test_refuse_reserved_bit25 : refusedFor [0x02000422] = some .reservedBits := by decide
theorem test_refuse_missing_operand : refusedFor [0x00000033, 0x20000000] = some .missingOperand := by decide
theorem test_refuse_reserved_cfg : refusedFor [0x01030320, 0x00000020] = some .reservedCfg := by decide

/-- Bits above the table's 32 are zero operand words. -/
theorem test_table_word_operands : decodeTableWord 32 0x00000134 = some (.spiStartRx 1 0 0) := by decide
/-- A second word's bits count on from 32. -/
theorem test_table_word_second : decodeTableWord 64 0x0000000700000920 = some (.gpioConfigure 9 0 0 7) := by decide
theorem test_table_word_refused : decodeTableWord 32 0x000000FF = none := by decide

/-- `irq_set_enabled 35, 1` as the first instruction after reset sets `EN[35]` (40_nvic.md R84, example). -/
theorem test_step_runs_first_instruction :
    (next? (step (s0.withFetchWord 32 0x00012301))).map (·.regValue (.iser 1)) = some 0x00000008 := by decide

/-- `gpio_configure 9, A, af, af=7` assembled (30_encoding.md R82). -/
theorem test_asm : asm (.gpioConfigure 9 0 2 0x700)
    = some "gpio_configure 9, A, af, speed=0, pull=0, otype=0, af=7" := by decide

/-! ## One micro-step of each command (the examples of its rule) -/

/-- `i = 31` writes `0x80000000` to bank 0 (R84, corner case). -/
theorem test_irqSetEnabled_bank_edge :
    (next? (exec (.irqSetEnabled 31 true) s0)).map (·.regValue (.iser 0)) = some 0x80000000 := by decide
theorem test_irqSetPriority_write :
    (next? (exec (.irqSetPriority 6 2) (s0.goto (.priorityWrite 0)))).map (·.regValue (.ipr 1))
      = some 0x00200000 := by decide
/-- `i % 4 = 3`: the field is bits 31:28 (R85, corner case). -/
theorem test_irqSetPriority_top_byte :
    (next? (exec (.irqSetPriority 7 15) (s0.goto (.priorityWrite 0x00100000)))).map (·.regValue (.ipr 1))
      = some 0xF0100000 := by decide
theorem test_extiConfigure_select :
    (next? (exec (.extiConfigure 5 2 1) (s0.goto (.router (.selectWrite 0xF13))))).map (·.regValue (.exticr 1))
      = some 0xF23 := by decide
theorem test_extiConfigure_unmask :
    (next? (exec (.extiConfigure 5 2 1) (s0.goto (.router (.maskWrite 0))))).map (·.exti.imr) = some 0x20 := by decide
theorem test_extiHandle_clears_one :
    (next? (exec (.extiHandle 5) (State.goto { s0 with exti := { s0.exti with pr := 0x21 } } .pendingClear))).map
      (·.exti.pr) = some 0x01 := by decide
theorem test_gpioConfigure_mode :
    (next? (exec (.gpioConfigure 9 0 2 0x700) (s0.goto (.gpio (.moderWrite 0x000C0001))))).map
      (·.regValue (.gpio 0 .moder)) = some 0x00080001 := by decide
theorem test_gpioConfigure_alternate :
    (next? (exec (.gpioConfigure 9 0 2 0x700) (s0.goto (.gpio (.afWrite 0xFF))))).map (·.regValue (.gpio 0 .afr1))
      = some 0x7F := by decide
theorem test_gpioReadPin_level :
    (next? (exec (.gpioReadPin 5 2) (s0.setPort 2 { s0.port 2 with pin := 0x20 }))).map (·.res)
      = some [⟨.fg, 0, .level true⟩] := by decide
theorem test_gpioWritePin_set :
    (next? (exec (.gpioWritePin 4 0 true) (s0.goto (.odrWrite 0x0001)))).map (·.regValue (.gpio 0 .odr))
      = some 0x0011 := by decide
theorem test_gpioTogglePin :
    (next? (exec (.gpioTogglePin 0 0) (s0.goto (.odrWrite 0x0011)))).map (·.regValue (.gpio 0 .odr))
      = some 0x0010 := by decide
theorem test_spiInit_cr1 :
    (next? (exec (.spiInit 0 true true 0) (s0.goto (.init .cr1Write)))).map (·.regValue (.spi 0 .cr1))
      = some 0x800 := by decide
theorem test_spiInit_cr2 :
    (next? (exec (.spiInit 0 true true 0) (s0.goto (.init .cr2Write)))).map (·.regValue (.spi 0 .cr2))
      = some 0x20 := by decide
theorem test_spiTransmit_writes_dr :
    (next? (exec (.spiTransmit 0 0x20000000 2) (s0.goto (.blocking (.second 0x20000000 2 .one 0xA5))))).map
      (fun t => ((t.inst 0).txq, (t.inst 0).sr, t.mstate)) = some (some 0xA5, 0, .blocking (.poll 0x20000001 1)) := by
  decide
theorem test_spiReceive_little_endian :
    (next? (exec (.spiReceive 0 0x20000100 2) (s0.goto (.blocking (.second 0x20000100 2 .two 0xABCD))))).map (·.mem)
      = some [(0x20000100, 0xCD), (0x20000101, 0xAB)] := by decide
theorem test_spiStartTx_last :
    (next? (exec (.spiStartTx 0 0x20000000 4) (s0.goto (.start (.cr2Write 0x20))))).map
      (fun t => (t.regValue (.spi 0 .cr2), t.res)) = some (0xA0, [⟨.fg, 0, .state .ready⟩]) := by decide
theorem test_spiStartRx_busy :
    (next? (exec (.spiStartRx 0 0x20000000 4) (withSpi (busySpi .rx 1)))).map (fun t => (t.res, t.inst 0))
      = some ([⟨.fg, 0, .state .busy⟩], busySpi .rx 1) := by decide
theorem test_spiIrqHandle_begins_tick :
    (next? (exec (.spiIrqHandle 0)
      ((withSpi { busySpi .tx 4 with cr2 := 0x80 }).goto (.select (.tick .tx) [.crc] 0x2)))).map (·.mstate)
      = some (.tick .tx [.crc] .stRead) := by decide
/-- The first `SR` read of a dispatch after a `DR` read clears a pending overrun, and still returns it (R136). -/
theorem test_spiIrqHandle_overrun_clear :
    (next? (exec (.spiIrqHandle 0)
      ((withSpi { spi0 with sr := 0x42, ovrseq := true }).goto (.dispatch [.ovr])))).map
      (fun t => (t.mstate, (t.inst 0).sr)) = some (.select .ovr [] 0x42, 0x02) := by decide
theorem test_spiCloseTx_clears :
    (next? (exec (.spiCloseTx 0)
      ((withSpi { busySpi .tx 2 with cr2 := 0xA0 }).goto (.close (.cr2Write 0xA0))))).map (·.regValue (.spi 0 .cr2))
      = some 0x20 := by decide
theorem test_spiCloseRx_unsafe :
    (next? (exec (.spiCloseRx 0) { s0 with nvic := { s0.nvic with en := 1#240 <<< 35 } })).map (·.faults)
      = some [⟨.unsafeClose, .fg, 0⟩] := by decide +kernel

/-! ## Witnesses: a state and operands that meet all hypotheses of each statement that has some, for each of its clauses,
at boundary values -/

theorem test_hyps_DecodeOfEncode : (Instr.gpioConfigure 255 255 255 0x00000F1F).wellFormed = true := by decide

theorem test_hyps_EncodeOfDecode :
    decode [0x00000033, 0x20000000, 4, 0x35] = .ok (.spiStartTx 0 0x20000000 4, [0x35]) := rfl

theorem test_hyps_StepRunsDecodedCommand :
    let s := s0.withFetchWord 32 0x00002301
    s.mustReturn = false ∧ s.sched = .run 0 :: [] ∧ s.top.stuck = none
      ∧ decode s.fetchWords = .ok (.irqSetEnabled 35 false, []) := ⟨rfl, rfl, rfl, rfl⟩

/-- FG in the last command of a callback, above a dispatch of `dispatch 0` at `rest`. -/
def inCallback (rest : List Handler) : State :=
  s0.setTop { cur := ⟨[0x00002301], 0, .fresh⟩, outer := [⟨[0x00000035], 0, .dispatch rest⟩], stuck := none }

/-- A command outside a callback, one before the last of a callback, and the last of one with sub-handlers left and with
none. -/
theorem test_hyps_StepRunsDecodedCommand_completion :
    s0.top.outer = []
      ∧ (let t := (s0.setTop { (inCallback []).top with cur := ⟨[0x00002301, 0x00002301], 0, .fresh⟩ }).top
        t.outer ≠ [] ∧ skipCommands (t.cur.pc + 1) t.cur.prog ≠ [])
      ∧ ∀ rest ∈ [[], [Handler.crc]], (inCallback rest).top.outer = ⟨[0x00000035], 0, .dispatch rest⟩ :: []
        ∧ skipCommands ((inCallback rest).top.cur.pc + 1) (inCallback rest).top.cur.prog = [] := by decide

/-- The last command of a callback hands back to the dispatch, or completes it where nothing of it is left (R121). -/
theorem test_callback_returns :
    ((inCallback [.crc]).complete.mstate, (inCallback []).complete.top.cur.pc, (inCallback []).complete.top.completed)
      = (.dispatch [.crc], 1, true) := by decide

theorem test_hyps_StepRefusesUndecodableWord :
    let s := s0.withFetchWord 32 0x00022301
    s.mustReturn = false ∧ s.sched = .run 0 :: [] ∧ s.top.stuck = none ∧ s.top.completed = false
      ∧ decode s.fetchWords = .error .reservedBits := ⟨rfl, rfl, rfl, by decide, rfl⟩

/-- A state in the middle of a command. -/
theorem test_hyps_StepAlwaysAnswersNext :
    ((s0.withFetchWord 32 0x00020602).goto (.priorityWrite 0)).positioned = true := by decide

/-- A step from a state whose memory lists a byte. -/
def listedByte : State := { s0.withFetchWord 32 0x00012301 with mem := [(0x20000000, 1)] }

theorem test_hyps_MemoryStaysCanonical : listedByte.mem.wf ∧ ∃ t, step listedByte = .next t := ⟨by decide, _, rfl⟩

/-- The last source enabled, its whole implemented priority field set. -/
def lastSource : State :=
  { s0.withFetchWord 32 0x00012301 with
    nvic := { s0.nvic with en := 1#240 <<< 239, ipr := s0.nvic.ipr.set 59 0xF0000000 } }

theorem test_hyps_ControllerStaysWellFormed :
    lastSource.controllerWf ∧ ∃ t, step lastSource = .next t := by
  refine ⟨?_, _, rfl⟩
  unfold State.controllerWf
  decide +kernel

/-- FG preempted by source 239. -/
theorem test_hyps_ActiveSourcesMatchStack :
    (inIsr 239).activeMatchesStack ∧ (inIsr 239).mustReturn = true ∧ ∃ t, step (inIsr 239) = .next t := by
  refine ⟨⟨by decide, fun i => ?_⟩, rfl, _, rfl⟩
  rw [inIsr, (takeInterrupt_bits s0 239 i (by decide)).2]
  simp [State.active, State.reset, State.initial, State.sources, State.takeInterrupt]

theorem test_hyps_ParametersNeverChange : ∃ t, step (inIsr 239) = .next t := ⟨_, rfl⟩

theorem test_hyps_RecordsOnlyGrow : ∃ t, step listedByte = .next t := ⟨_, rfl⟩

theorem test_hyps_OnlySetEnabledChangesEnables :
    ∃ t, step (s0.withFetchWord 32 0x00012301) = .next t ∧ t.nvic.en ≠ s0.nvic.en := ⟨_, rfl, by decide⟩

theorem test_hyps_CommandsLeaveDeliveryStateAlone :
    (inIsr 35).stack.isrs ≠ [] ∧ ∃ t, exec (.spiIrqHandle 0) (inIsr 35) = .next t := ⟨by decide, _, rfl⟩

/-- An entry, and (above) a return. -/
theorem test_hyps_ContextsChangeOnlyByEntryAndReturn :
    let s := { s0 with nvic := { s0.nvic with en := 2, pend := 2 }, sched := [.enter] }
    ∃ t, step s = .next t ∧ t.sources = [1] := ⟨_, rfl, by decide +kernel⟩

theorem test_hyps_DisabledSourceIsNotEntered :
    let s := { inIsr 35 with sched := [.enter] }
    s.enabled 35 = false ∧ ∃ t, step s = .next t ∧ 35 ∈ t.sources := ⟨by decide, _, rfl, by decide +kernel⟩

/-- A stuck FG, and a stuck interrupt context on top of it. -/
theorem test_hyps_StuckContextsStayAsTheyAre :
    let s := ({ (s0.stick .refused).takeInterrupt 3 with sched := [.run 0] } : State).stick (.faulted .badPin)
    s.stack.fg.stuck.isSome = true ∧ (∃ x ∈ s.stack.isrs, x.thread.stuck.isSome = true) ∧ ∃ t, step s = .next t :=
  ⟨rfl, ⟨_, List.mem_singleton.mpr rfl, rfl⟩, _, rfl⟩

/-- Source 7 active at priority 1, source 5 pending and enabled at priority 0. -/
def nestable : State :=
  ({ s0 with nvic := { s0.nvic with en := 1#240 <<< 5, pend := 1#240 <<< 5, ipr := s0.nvic.ipr.set 1 0x10000000 } } :
    State).takeInterrupt 7

theorem test_hyps_EntryKeepsNesting :
    nestable.controllerWf ∧ nestable.activeMatchesStack ∧ nestable.nested ∧ nestable.chosen = some 5 := by
  refine ⟨?_, ⟨by decide, fun i => ?_⟩, ?_, by decide +kernel⟩
  · unfold State.controllerWf
    decide +kernel
  · rw [nestable, (takeInterrupt_bits _ 7 i (by decide)).2]
    simp [State.active, State.reset, State.initial, State.sources, State.takeInterrupt]
  · unfold State.nested
    decide

theorem test_hyps_FrameReadsBack : Memory.wf [(0, 1), (0xFFFFFFFF, 2)] := by decide

/-- The suggested launch with port I's base and all its offsets moved by 2: the sums are aligned, the base is not. -/
def skewedLaunch : Launch :=
  { Launch.suggested with
    cfg := { Config.suggested with
      addr := { AddrMap.suggested with
        gpio := AddrMap.suggested.gpio.set 8 ⟨0x40022002, 0xFFFFFFFE, 2, 6, 0xA, 0xE, 0x12, 0x1E⟩ } } }

theorem test_hyps_AddressesNameTheirRegisters :
    addrWf Config.suggested = true
      ∧ Reg.spi 0 .dr ∈ allRegs Config.suggested.nIrq Config.suggested.spiIrq.length
      ∧ 0x40022002#32 ∈ addrBases skewedLaunch.cfg.addr ∧ (0x40022002#32).toNat % 4 ≠ 0 := by
  decide +kernel

/-- A base that is not word-aligned is refused though every register address is aligned (20_memory.md R56). -/
theorem test_refuse_skewed_base :
    (addrWf skewedLaunch.cfg, (regAddr skewedLaunch.cfg.addr (.gpio 8 .moder)).toNat % 4) = (false, 0) := by
  decide +kernel

/-- A position that stores, at the last byte of RAM and past it. -/
theorem test_hyps_CommandsStoreOnlyReceivedFrames :
    let at' (b : Word) : State := s0.goto (.tick .rx [] (.second .one 1 b 0x1FF))
    (s0.mem.wf ∧ storedFrame (.spiIrqHandle 0) (at' 0x2001FFFF).mstate = some (0x2001FFFF, .one, 0xFF)
        ∧ (at' 0x2001FFFF).ramOk 0x2001FFFF .one = true ∧ ∃ t, exec (.spiIrqHandle 0) (at' 0x2001FFFF) = .next t)
      ∧ (storedFrame (.spiIrqHandle 0) (at' 0x20020000).mstate = some (0x20020000, .one, 0xFF)
        ∧ (at' 0x20020000).ramOk 0x20020000 .one = false ∧ ∃ t, exec (.spiIrqHandle 0) (at' 0x20020000) = .next t)
      ∧ storedFrame (.spiIrqHandle 0) s0.mstate = none :=
  ⟨⟨by decide, rfl, by decide, _, rfl⟩, ⟨rfl, by decide, _, rfl⟩, rfl⟩

theorem test_hyps_CommandsTouchOnlyTheirUnit : ∃ t, exec (.gpioTogglePin 15 8) (s0.goto (.odrWrite 0)) = .next t :=
  ⟨_, rfl⟩

theorem test_hyps_OnlyEngineWritesTransferContexts :
    ∃ t, step ((s0.withFetchWord 32 0x00000036).goto (.close .bufWrite)) = .next t
      ∧ ∃ u, step (((withSpi (busySpi .tx 2)).withFetchWord 32 0x00000036).goto (.close .bufWrite)) = .next u
      ∧ u.tc 0 .tx ≠ (withSpi (busySpi .tx 2)).tc 0 .tx := ⟨_, rfl, _, rfl, by decide⟩

/-- The first value past each range (R79). -/
theorem test_hyps_RangeFaultsBeforeAnyAccess :
    s0.mstate = .fresh ∧ rangeFault s0 (.irqSetEnabled 240 true) = some .badIrq
      ∧ rangeFault s0 (.irqSetPriority 240 16) = some .badIrq ∧ rangeFault s0 (.irqSetPriority 239 16) = some .badPrio
      ∧ rangeFault s0 (.extiConfigure 16 9 3) = some .badPin ∧ rangeFault s0 (.extiConfigure 15 9 3) = some .badPort
      ∧ rangeFault s0 (.extiConfigure 15 8 3) = some .badTrigger ∧ rangeFault s0 (.extiHandle 16) = some .badPin
      ∧ rangeFault s0 (.gpioConfigure 15 8 7 0) = some .badMode ∧ rangeFault s0 (.gpioReadPin 15 9) = some .badPort
      ∧ rangeFault s0 (.gpioWritePin 16 0 true) = some .badPin ∧ rangeFault s0 (.gpioTogglePin 0 9) = some .badPort
      ∧ rangeFault s0 (.spiInit 1 true true 0) = some .badInstance
      ∧ rangeFault s0 (.spiTransmit 1 0 0) = some .badInstance
      ∧ rangeFault s0 (.spiReceive 1 0 0) = some .badInstance ∧ rangeFault s0 (.spiStartTx 1 0 0) = some .badInstance
      ∧ rangeFault s0 (.spiStartRx 1 0 0) = some .badInstance ∧ rangeFault s0 (.spiIrqHandle 1) = some .badInstance
      ∧ rangeFault s0 (.spiCloseTx 1) = some .badInstance ∧ rangeFault s0 (.spiCloseRx 1) = some .badInstance := by
  decide

theorem test_hyps_MixedModeFaults :
    let s := withSpi { spi0 with blk := true }
    s.mstate = .fresh ∧ (0#8).toNat < s.nSpi ∧ (s.inst (0#8).toNat).blk = true
      ∧ (withSpi (busySpi .tx 1)).mstate = .fresh ∧ ((withSpi (busySpi .tx 1)).tc 0 .tx).st = .busy
      ∧ ((withSpi (busySpi .rx 1)).tc 0 .rx).st = .busy := by decide

theorem test_hyps_IrqSetEnabledResult : s0.mstate = .fresh ∧ (239#8).toNat < s0.cfg.nIrq := by decide

theorem test_hyps_EnableDisableRoundTrip :
    s0.mstate = .fresh ∧ (239#8).toNat < s0.cfg.nIrq
      ∧ ∃ t u, exec (.irqSetEnabled 239 true) s0 = .next t
        ∧ (t.goto .fresh).nvic.en = t.nvic.en ∧ (t.goto .fresh).cfg = s0.cfg ∧ (t.goto .fresh).mstate = .fresh
        ∧ exec (.irqSetEnabled 239 false) (t.goto .fresh) = .next u :=
  ⟨rfl, by decide, _, _, rfl, rfl, rfl, rfl, rfl⟩

theorem test_hyps_IrqSetPriorityResult :
    (239#8).toNat < s0.cfg.nIrq ∧ (15#8).toNat < 16 ∧ s0.mstate = .fresh
      ∧ (s0.goto (.priorityWrite 0xF0)).mstate = .priorityWrite 0xF0 := by decide

theorem test_hyps_PriorityReadsBack :
    s0.controllerWf ∧ s0.mstate = .fresh ∧ (239#8).toNat < s0.cfg.nIrq ∧ (15#8).toNat < 16
      ∧ (s0.nvic.ipr[(239#8).toNat / 4]?.getD 0 &&& (0xF <<< (8 * ((239#8).toNat % 4) + 4)) = 0#32)
      ∧ ∃ t u, exec (.irqSetPriority 239 15) s0 = .next t ∧ t.nvic.ipr[59]? = t.nvic.ipr[59]? ∧ t.cfg = s0.cfg
        ∧ exec (.irqSetPriority 239 15) t = .next u := by
  refine ⟨?_, rfl, by decide, by decide, by decide, _, _, rfl, rfl, rfl, rfl⟩
  unfold State.controllerWf
  decide +kernel

theorem test_hyps_PrioritiesAccumulate :
    s0.controllerWf ∧ (6#8).toNat < s0.cfg.nIrq ∧ ∀ p ∈ [2#8, 1#8, 15#8], p.toNat < 16 := by
  refine ⟨?_, by decide, by decide⟩
  unfold State.controllerWf
  decide +kernel

/-- The same state with the selector stored whole. -/
def wholeStore : State := { s0 with cfg := { s0.cfg with exticrMode := .whole } }

theorem test_hyps_ExtiConfigureResult :
    s0.mstate = .fresh ∧ wholeStore.mstate = .fresh ∧ (15#8).toNat ≤ 15 ∧ (8#8).toNat ≤ 8
      ∧ (2#8 = match Trigger.both with | .falling => 0 | .rising => 1 | .both => 2) := by decide

theorem test_hyps_TriggerExclusivity :
    s0.mstate = .fresh ∧ (15#8).toNat ≤ 15 ∧ (8#8).toNat ≤ 8 ∧ (2#8).toNat ≤ 2
      ∧ (∃ u, execRun (routerAccesses s0) (.extiConfigure 15 8 2) s0 = .next u)
      ∧ (∃ u, execRun (routerAccesses s0) (.extiConfigure 0 8 0) s0 = .next u)
      ∧ ∃ u, execRun (routerAccesses wholeStore) (.extiConfigure 0 0 1) wholeStore = .next u :=
  ⟨rfl, by decide, by decide, by decide, ⟨_, rfl⟩, ⟨_, rfl⟩, _, rfl⟩

/-- The line not pending; pending; before the clearing write. -/
theorem test_hyps_ExtiHandleResult :
    let s : State := { s0 with exti := { s0.exti with pr := 0x8000 } }
    (15#8).toNat ≤ 15 ∧ s0.mstate = .fresh ∧ s0.exti.pr.getLsbD (15#8).toNat = false
      ∧ s.mstate = .fresh ∧ s.exti.pr.getLsbD (15#8).toNat = true ∧ (s.goto .pendingClear).mstate = .pendingClear := by
  decide

theorem test_hyps_GpioConfigurePlainResult :
    s0.mstate = .fresh ∧ (15#8).toNat ≤ 15 ∧ (8#8).toNat ≤ 8 ∧ (3#8).toNat ≤ 3 := by decide

theorem test_hyps_GpioConfigureInterruptResult :
    s0.mstate = .fresh ∧ (15#8).toNat ≤ 15 ∧ (8#8).toNat ≤ 8
      ∧ (6#8 = match Trigger.both with | .falling => 4 | .rising => 5 | .both => 6) := by decide

theorem test_hyps_GpioReadPinResult : s0.mstate = .fresh ∧ (15#8).toNat ≤ 15 ∧ (8#8).toNat ≤ 8 := by decide

theorem test_hyps_OdrUpdateResult :
    (15#8).toNat ≤ 15 ∧ (8#8).toNat ≤ 8 ∧ s0.mstate = .fresh
      ∧ (s0.goto (.odrWrite 0xFFFF)).mstate = .odrWrite 0xFFFF := by decide

theorem test_hyps_SpiInitResult :
    s0.mstate = .fresh ∧ (0#8).toNat < s0.nSpi ∧ (s0.tc (0#8).toNat .tx).st = .ready
      ∧ (s0.tc (0#8).toNat .rx).st = .ready ∧ (s0.inst (0#8).toNat).blk = false := by decide

/-- The start; a poll that fails, in both directions; a poll that passes, of the last byte of RAM; the last wait, busy and
idle. -/
theorem test_hyps_BlockingTransferSteps :
    let p := s0.goto (.blocking (.poll 0x2001FFFF 1))
    let r := (withSpi { spi0 with sr := 0x81 }).goto (.blocking (.poll 0x2001FFFF 1))
    ((0#8).toNat < s0.nSpi ∧ s0.mstate = .fresh ∧ (s0.tc 0 .tx).st = .ready ∧ (s0.tc 0 .rx).st = .ready
        ∧ (s0.inst 0).blk = false)
      ∧ (p.mstate = .blocking (.poll 0x2001FFFF 1) ∧ (p.inst 0).sr.getLsbD p.cfg.pos.txe = true
        ∧ (p.inst 0).sr.getLsbD p.cfg.pos.rxne = false ∧ (p.frameSizeOf 0).bytes ≤ (1#32).toNat
        ∧ p.ramOk 0x2001FFFF (p.frameSizeOf 0) = true)
      ∧ (r.mstate = .blocking (.poll 0x2001FFFF 1) ∧ (r.inst 0).sr.getLsbD r.cfg.pos.txe = false
        ∧ (r.inst 0).sr.getLsbD r.cfg.pos.rxne = true ∧ r.ramOk 0x2001FFFF (r.frameSizeOf 0) = true)
      ∧ ((s0.goto (.blocking .idle)).mstate = .blocking .idle ∧ (s0.inst 0).sr.getLsbD s0.cfg.pos.bsy = false
        ∧ (r.inst 0).sr.getLsbD r.cfg.pos.bsy = true) := by decide

theorem test_hyps_TransmitSendsBufferInOrder :
    let s := s0.goto (.blocking (.poll 0x2001FFFE 2))
    posWf s.cfg.pos = true ∧ (0#8).toNat < s.nSpi ∧ 1 ≤ 2 ∧ 2 * (s.frameSizeOf 0).bytes < 2 ^ 32
      ∧ 2#32 = BitVec.ofNat 32 (2 * (s.frameSizeOf 0).bytes) ∧ s.mstate = .blocking (.poll 0x2001FFFE 2)
      ∧ (s.inst 0).sr.getLsbD s.cfg.pos.txe = true
      ∧ ∀ j < 2, s.ramOk (0x2001FFFE + BitVec.ofNat 32 (j * (s.frameSizeOf 0).bytes)) (s.frameSizeOf 0) = true := by
  decide

/-- Both directions, with `START_ATOMIC` false and true. -/
theorem test_hyps_StartResult :
    let a : State := { s0 with cfg := { s0.cfg with startAtomic := true } }
    (s0.mstate = .fresh ∧ (0#8).toNat < s0.nSpi ∧ (s0.inst 0).blk = false
        ∧ ∀ d ∈ [Direction.tx, .rx], (s0.tc 0 d).st = .ready)
      ∧ a.mstate = .fresh ∧ (0#8).toNat < a.nSpi ∧ (a.inst 0).blk = false
      ∧ ∀ d ∈ [Direction.tx, .rx], (a.tc 0 d).st = .ready := by decide

theorem test_hyps_RejectedStartChangesNothing :
    ∀ d ∈ [Direction.tx, .rx], (withSpi (busySpi d 4)).mstate = .fresh ∧ (0#8).toNat < (withSpi (busySpi d 4)).nSpi
      ∧ ((withSpi (busySpi d 4)).inst 0).blk = false ∧ ((withSpi (busySpi d 4)).tc 0 d).st = .busy := by decide

/-- A guard that passes; a source that could preempt; a handler suspended beneath. -/
theorem test_hyps_CloseResult :
    let e : State := { s0 with nvic := { s0.nvic with en := 1#240 <<< 35 } }
    let b : State := (inIsr 35).takeInterrupt 36
    s0.mstate = .fresh ∧ (0#8).toNat < s0.nSpi ∧ spiSource s0.cfg 0 = 35 ∧ s0.enabled 35 = false
      ∧ s0.active 35 = false
      ∧ (e.mstate = .fresh ∧ e.enabled 35 = true ∧ e.active 35 = false ∧ e.prio 35 < e.execPri)
      ∧ (b.mstate = .fresh ∧ b.active 35 = true ∧ b.stack.kind ≠ .isr 35) := by decide +kernel

theorem test_hyps_DispatchSelectsHandlers :
    (0#8).toNat < s0.nSpi ∧ s0.mstate = .fresh
      ∧ orderHandlers s0.order = .tick .tx :: [.tick .rx, .ovr, .crc]
      ∧ ∀ h ∈ [Handler.tick .tx, .tick .rx, .ovr, .crc], (s0.goto (.dispatch [h])).mstate = .dispatch (h :: [])
        ∧ (s0.goto (.select h [] 0x53)).mstate = .select h [] 0x53 := by
  decide

theorem test_hyps_IdleDispatchCompletes :
    s0.mstate = .fresh ∧ (0#8).toNat < s0.nSpi
      ∧ ¬ ((s0.inst 0).sr.getLsbD s0.cfg.pos.txe = true ∧ (s0.inst 0).cr2.getLsbD s0.cfg.pos.txeie = true)
      ∧ ¬ ((s0.inst 0).sr.getLsbD s0.cfg.pos.rxne = true ∧ (s0.inst 0).cr2.getLsbD s0.cfg.pos.rxneie = true)
      ∧ ¬ (((s0.inst 0).sr.getLsbD s0.cfg.pos.ovr = true ∨ (s0.inst 0).sr.getLsbD s0.cfg.pos.crcerr = true)
        ∧ (s0.inst 0).cr2.getLsbD s0.cfg.pos.errie = true)
      ∧ ¬ ((s0.inst 0).sr.getLsbD s0.cfg.pos.ovr = true ∧ (s0.inst 0).ovrseq = true) := by decide

/-- Before a tick of a BUSY direction. -/
def atTick (d : Direction) (len : Word) : State := (withSpi (busySpi d len)).goto (.tick d [.crc] .stRead)

/-- Two bytes left and one byte left, in both directions. -/
theorem test_hyps_TickMovesOneFrame :
    ∀ d ∈ [Direction.tx, .rx],
      (0#8).toNat < (atTick d 2).nSpi ∧ (atTick d 2).mstate = .tick d [.crc] .stRead
        ∧ ((atTick d 2).tc 0 d).st = .busy
        ∧ (atTick d 2).ramOk ((atTick d 2).tc 0 d).buf ((atTick d 2).frameSizeOf 0) = true
        ∧ ((atTick d 2).frameSizeOf 0).bytes < ((atTick d 2).tc 0 d).len.toNat
        ∧ ((atTick d 1).tc 0 d).st = .busy ∧ ((atTick d 1).tc 0 d).len.toNat = ((atTick d 1).frameSizeOf 0).bytes := by
  decide

theorem test_hyps_TransferTakesExactlyNTicks :
    ∀ d ∈ [Direction.tx, .rx],
      let s := withSpi (busySpi d 3)
      let f := s.frameSizeOf 0
      (0#8).toNat < s.nSpi ∧ 1 ≤ 3 ∧ 3 * f.bytes < 2 ^ 32
        ∧ s.tc 0 d = ⟨0x20000000, BitVec.ofNat 32 (3 * f.bytes), .busy⟩
        ∧ ∀ j < 3, s.ramOk (0x20000000 + BitVec.ofNat 32 (j * f.bytes)) f = true := by decide

/-- A READY direction at its tick; one byte left of a two-byte frame, in a tick and in a blocking transfer; a two-byte
frame at the last byte of RAM, before each buffer access. -/
theorem test_hyps_TransferStops :
    let w := withSpi { busySpi .rx 1 with cr1 := 0x800 }
    (0#8).toNat < s0.nSpi
      ∧ ((s0.goto (.tick .tx [] .stRead)).mstate = .tick .tx [] .stRead ∧ (s0.tc 0 .tx).st = .ready)
      ∧ ((w.goto (.tick .rx [] (.lenRead .two))).mstate = .tick .rx [] (.lenRead .two)
        ∧ (w.tc 0 .rx).len.toNat < FrameSize.two.bytes)
      ∧ ((w.goto (.blocking (.frame 0 1))).mstate = .blocking (.frame 0 1)
        ∧ (1#32).toNat < (w.frameSizeOf 0).bytes)
      ∧ ∀ m ∈ [MState.tick .tx [] (.first .two 2 0x2001FFFF), .tick .rx [] (.second .two 2 0x2001FFFF 7),
          .blocking (.first 0x2001FFFF 2 .two), .blocking (.second 0x2001FFFF 2 .two 7)],
        (s0.goto m).mstate = m ∧ (s0.goto m).ramOk 0x2001FFFF .two = false := by decide

/-- A transmit in flight, and none, with OVR set. -/
theorem test_hyps_OverrunHandlerResult :
    let b := (withSpi { busySpi .tx 1 with sr := 0x41 }).goto (.drain [] .stRead)
    let r := (withSpi { spi0 with sr := 0x41 }).goto (.drain [] .stRead)
    (0#8).toNat < b.nSpi ∧ b.mstate = .drain [] .stRead ∧ (b.tc 0 .tx).st = .busy
      ∧ r.mstate = .drain [] .stRead ∧ (r.tc 0 .tx).st = .ready ∧ posWf r.cfg.pos = true
      ∧ (r.inst 0).sr.getLsbD r.cfg.pos.ovr = true := by decide

/-- The reset state with a callback on the CRC error of instance 0. -/
def noisy : State := { s0 with cfg := { s0.cfg with callbacks := [((0, .crcErr), [0x00000036])] } }

/-- With `CRC_CLEAR` false and true, and without and with a callback. -/
theorem test_hyps_CrcHandlerResult :
    let s := (withSpi { spi0 with cr2 := 0x20 }).goto (.select .crc [] 0x10)
    let c : State := { s with cfg := { s.cfg with crcClear := true } }
    (0#8).toNat < s.nSpi ∧ s.mstate = .select .crc [] 0x10 ∧ (0x10#32).getLsbD s.cfg.pos.crcerr = true
      ∧ (s.inst 0).cr2.getLsbD s.cfg.pos.errie = true ∧ s.cfg.crcClear = false
      ∧ c.mstate = .select .crc [] 0x10 ∧ (c.inst 0).cr2.getLsbD c.cfg.pos.errie = true ∧ c.cfg.crcClear = true
      ∧ (s.cfg.callbacks.lookup (0, Event.crcErr)).getD [] = []
      ∧ (noisy.cfg.callbacks.lookup (0, Event.crcErr)).getD [] ≠ [] := by
  decide

/-- A latch step of a requesting source sets its pending bit (60_exceptions.md R142). -/
theorem test_latch_pends :
    (next? (step { s0 with sched := [.pend 239], extReq := 1#240 <<< 239 })).map (·.nvic.pend) = some (1#240 <<< 239) := by
  decide +kernel

/-- The callback's first command stands on top of the dispatch (43_spi_engine.md R121). -/
theorem test_callback_begins :
    ((noisy.notify 0 .crcErr [.ovr]).fetchWords, (noisy.notify 0 .crcErr [.ovr]).log)
      = ([0x00000036], [(0, .crcErr)]) := by decide

theorem test_hyps_DataRegisterWrite : 0 < s0.nSpi := by decide

/-- Every event at the head of the schedule; a queued frame and none; an empty and a full receive buffer. -/
theorem test_hyps_SpiDeviceSteps :
    (∀ e ∈ [SpiEvent.takeFrame, .arrive 0xFFFF true, .busy true, .modeFault, .crcError, .opaqueBits 0xFFFFFFFF],
        let s : State := { s0 with sched := [.spi 0 e] }
        0 < s.nSpi ∧ s.mustReturn = false ∧ s.sched = .spi 0 e :: [])
      ∧ (s0.inst 0).txq = none ∧ ((withSpi { spi0 with txq := some 0xA5 }).inst 0).txq = some 0xA5
      ∧ (s0.inst 0).sr.getLsbD s0.cfg.pos.rxne = false
      ∧ ((withSpi { spi0 with sr := 0x1 }).inst 0).sr.getLsbD s0.cfg.pos.rxne = true := by decide

/-- An overrun clear due, and none. -/
theorem test_hyps_DataAndStatusReads :
    let s := withSpi { spi0 with sr := 0x40, ovrseq := true }
    0 < s.nSpi ∧ (s.inst 0).sr.getLsbD s.cfg.pos.ovr = true ∧ (s.inst 0).ovrseq = true
      ∧ (s0.inst 0).sr.getLsbD s0.cfg.pos.ovr = false := by decide

/-- The last source belongs to no line and no instance. -/
theorem test_hyps_RequestLevels :
    sourcesWf s0.cfg = true ∧ s0.cfg.spiIrq.length = s0.nSpi ∧ 0 < s0.nSpi ∧ extiSource s0.cfg 15 = 40
      ∧ 239 < s0.cfg.nIrq.val ∧ (∀ l < 16, extiSource s0.cfg l ≠ 239) ∧ (∀ k < s0.nSpi, spiSource s0.cfg k ≠ 239)
      ∧ (let s : State := { s0 with sched := [.request 239 true] };
        s.mustReturn = false ∧ s.sched = .request 239 true :: []) := by
  decide +kernel

theorem test_hyps_PinEdgeLatches :
    let s : State := { s0 with sched := [.pinChange 8 15] }
    s.mustReturn = false ∧ s.sched = .pinChange 8 15 :: [] := by decide

/-- FG is idle and no source is enabled. -/
def idle (s : State) : Prop := s.stack = ⟨Thread.start [], []⟩ ∧ s.nvic.en = 0

/-- Nothing wakes an idle machine whose sources are all disabled. -/
theorem idle_step {s : State} (h : idle s) : ∃ t, step s = .next t ∧ idle t := by
  obtain ⟨hs, he⟩ := h
  have hc : ∀ t : State, t.nvic.en = 0 → t.chosen = none := fun t ht =>
    (chosen_eq_none t).mpr fun i _ => by simp [State.eligible, State.eligibleAt, State.enabled, ht]
  rcases step_cases s with ⟨hm, -⟩ | ⟨m, sched, moves, -, h⟩
  · rw [State.mustReturn, hs] at hm
    cases hm
  · rw [h]
    cases m with
    | run o =>
      refine ⟨{ s with sched := sched, moves := moves, order := o }, ?_, hs, he⟩
      rw [applyMove, runTop, if_pos (by rw [State.top, Stack.top, hs]; rfl)]
    | pend i => exact ⟨_, rfl, by unfold State.pendSource; split <;> exact ⟨hs, he⟩⟩
    | enter => exact ⟨_, rfl, by rw [State.enterChosen, hc { s with sched := sched, moves := moves } he]; exact ⟨hs, he⟩⟩
    | pinChange p n => exact ⟨_, rfl, by unfold State.changePin; dsimp only; split <;> exact ⟨hs, he⟩⟩
    | request i l => exact ⟨_, rfl, by unfold State.setRequest; split <;> exact ⟨hs, he⟩⟩
    | spi k e => exact ⟨_, rfl, by unfold State.spiEvent; split <;> exact ⟨hs, he⟩⟩

/-- The endless run from reset. -/
def resetRun : Nat → State
  | 0 => s0
  | n + 1 => (next? (step (resetRun n))).getD (resetRun n)

theorem resetRun_idle (n : Nat) : idle (resetRun n) ∧ step (resetRun n) = .next (resetRun (n + 1)) := by
  have key : ∀ m, idle (resetRun m) → idle (resetRun (m + 1)) ∧ step (resetRun m) = .next (resetRun (m + 1)) := by
    intro m h
    obtain ⟨t, ht, hi⟩ := idle_step h
    have : resetRun (m + 1) = t := by rw [resetRun, ht]; rfl
    exact ⟨this ▸ hi, by rw [this, ht]⟩
  have all : ∀ m, idle (resetRun m) := fun m => by
    induction m with
    | zero => exact ⟨rfl, rfl⟩
    | succ m ih => exact (key m ih).1
  exact ⟨all n, (key n (all n)).2⟩

/-- A latch step and the choice, of the last source, which does not request, requests, and requests while active; an
execution. -/
theorem test_hyps_EntryChoiceAndFairness :
    (let s : State := { s0 with sched := [.pend 239] };
      239 < s.cfg.nIrq.val ∧ s.mustReturn = false ∧ s.sched = .pend 239 :: [] ∧ s.request 239 = false)
      ∧ (let s : State := { s0 with sched := [.pend 239], extReq := 1#240 <<< 239 };
        239 < s.cfg.nIrq.val ∧ s.mustReturn = false ∧ s.sched = .pend 239 :: []
          ∧ s.request 239 = true ∧ s.active 239 = false)
      ∧ (let s : State :=
          { s0 with sched := [.pend 239], extReq := 1#240 <<< 239, nvic := { s0.nvic with act := 1#240 <<< 239 } };
        239 < s.cfg.nIrq.val ∧ s.mustReturn = false ∧ s.sched = .pend 239 :: []
          ∧ s.request 239 = true ∧ s.active 239 = true)
      ∧ Execution resetRun ∧ 239 < (resetRun 0).cfg.nIrq.val := by
  refine ⟨by decide +kernel, by decide +kernel, by decide +kernel,
    ⟨fun n => (resetRun_idle n).2, fun n i _ h => ?_⟩, by decide⟩
  have h := h n (Nat.le_refl n)
  simp [State.eligible, State.eligibleAt, State.enabled, (resetRun_idle n).1.2] at h

theorem test_hyps_EntryStep :
    (let s : State := { nestable with sched := [.enter], stack := { nestable.stack with isrs := [] } };
      s.mustReturn = false ∧ s.sched = .enter :: [] ∧ s.chosen = some 5)
      ∧ sourcesWf s0.cfg = true ∧ s0.cfg.spiIrq.length = s0.nSpi ∧ 0 < s0.nSpi
      ∧ ∀ k < s0.nSpi, spiSource s0.cfg k ≠ 239 :=
  ⟨⟨rfl, rfl, by decide +kernel⟩, by decide +kernel, rfl, by decide, by decide⟩

/-- Reset, with no program and nothing requesting, has ended for good; an unlatched request of an enabled source keeps a run
from that (70_reset_and_hazards.md R180). -/
theorem test_endedForGood :
    (s0.endedForGood,
      (let s : State := { s0 with nvic := { s0.nvic with en := 1 }, extReq := 1 }; (s.ended, s.endedForGood)))
      = (true, true, false) := by decide +kernel

theorem test_hyps_ReturnStep :
    (inIsr 3).stack.isrs = ⟨3, Thread.start []⟩ :: [] ∧ (Thread.start []).completed = true := ⟨rfl, rfl⟩

theorem test_hyps_ResetValues : posWf Launch.suggested.cfg.pos = true := by decide

end Sys2Proof.Tests
end

section
/-! SUPPORT. What no command changes, said once: the parameters, the number of SPI instances, the pending and active
bits, the other sources' request inputs, and every context beneath the running one (10_state.md R20, R41;
60_exceptions.md R150). Each operation that commands are made of keeps this part of the state, so every command does. -/

namespace Sys2Proof.Machine

open Host (Outcome)

/-! ## The part of the state that commands leave alone -/

/-- The stack with its running context blanked: the contexts beneath it, and which source it serves. -/
def Stack.suspended (k : Stack) : Stack := k.setTop (Thread.start [])

@[simp] theorem Stack.suspended_setTop (k : Stack) (u : Thread) : (k.setTop u).suspended = k.suspended := by
  unfold Stack.suspended Stack.setTop
  rcases h : k.isrs with _ | ⟨i, l⟩ <;> simp

/-- Stacks that agree beneath the running context serve the same sources, and agree on the contexts under the top. -/
theorem Stack.suspended_eq {k l : Stack} (h : l.suspended = k.suspended) :
    l.isrs.map Isr.source = k.isrs.map Isr.source ∧ l.isrs.tail = k.isrs.tail ∧ (k.isrs ≠ [] → l.fg = k.fg) := by
  unfold Stack.suspended Stack.setTop at h
  rcases hk : k.isrs with _ | ⟨i, is⟩ <;> rcases hl : l.isrs with _ | ⟨j, js⟩ <;> simp_all

/-- What `State.commandFrame` reads off a state. -/
structure CommandFrame where
  cfg : Config
  nSpi : Nat
  pend : BitVec 240
  act : BitVec 240
  extReq : BitVec 240
  suspended : Stack

/-- The part of a state that no command changes. -/
def State.commandFrame (s : State) : CommandFrame :=
  { cfg := s.cfg, nSpi := s.nSpi, pend := s.nvic.pend, act := s.nvic.act, extReq := s.extReq,
    suspended := s.stack.suspended }

theorem commandFrame_eq_iff {s t : State} :
    t.commandFrame = s.commandFrame ↔
      t.cfg = s.cfg ∧ t.nSpi = s.nSpi ∧ t.nvic.pend = s.nvic.pend ∧ t.nvic.act = s.nvic.act ∧ t.extReq = s.extReq
        ∧ t.stack.suspended = s.stack.suspended := by
  simp [State.commandFrame]

/-! ## The operations -/

@[simp] theorem commandFrame_setPort (s : State) (p : Nat) (x : Port) :
    (s.setPort p x).commandFrame = s.commandFrame := rfl

@[simp] theorem commandFrame_mapInst (s : State) (k : Nat) (f : Spi → Spi) :
    (s.mapInst k f).commandFrame = s.commandFrame := by
  simp [commandFrame_eq_iff]

@[simp] theorem commandFrame_setBuf (s : State) (k : Nat) (d : Direction) (v : Word) :
    (s.setBuf k d v).commandFrame = s.commandFrame := commandFrame_mapInst s k _

@[simp] theorem commandFrame_setLen (s : State) (k : Nat) (d : Direction) (v : Word) :
    (s.setLen k d v).commandFrame = s.commandFrame := commandFrame_mapInst s k _

@[simp] theorem commandFrame_setSt (s : State) (k : Nat) (d : Direction) (v : TransferState) :
    (s.setSt k d v).commandFrame = s.commandFrame := commandFrame_mapInst s k _

@[simp] theorem commandFrame_setBlk (s : State) (k : Nat) (b : Bool) :
    (s.setBlk k b).commandFrame = s.commandFrame := commandFrame_mapInst s k _

@[simp] theorem commandFrame_afterRead (s : State) (r : Reg) : (s.afterRead r).commandFrame = s.commandFrame := by
  rcases afterRead_eq s r with h | ⟨k, -, h⟩ | ⟨k, -, h⟩ <;> simp [h]

@[simp] theorem commandFrame_regWrite (s : State) (r : Reg) (v : Word) :
    (s.regWrite r v).commandFrame = s.commandFrame := by
  cases r with
  | gpio p r => exact commandFrame_setPort s p _
  | spi k r => exact commandFrame_mapInst s k _
  | iser _ | icer _ | ipr _ | exti _ | exticr _ => rfl

@[simp] theorem commandFrame_storeFrame (s : State) (a : Word) (f : FrameSize) (v : Word) :
    (s.storeFrame a f v).commandFrame = s.commandFrame := rfl

@[simp] theorem commandFrame_setTop (s : State) (u : Thread) : (s.setTop u).commandFrame = s.commandFrame :=
  commandFrame_eq_iff.mpr ⟨rfl, rfl, rfl, rfl, rfl, Stack.suspended_setTop s.stack u⟩

@[simp] theorem commandFrame_goto (s : State) (m : MState) : (s.goto m).commandFrame = s.commandFrame :=
  commandFrame_setTop s _

@[simp] theorem commandFrame_complete (s : State) : s.complete.commandFrame = s.commandFrame :=
  commandFrame_setTop s _

@[simp] theorem commandFrame_stick (s : State) (w : Stuck) : (s.stick w).commandFrame = s.commandFrame :=
  commandFrame_setTop s _

@[simp] theorem commandFrame_raise (s : State) (c : FaultCode) : (s.raise c).commandFrame = s.commandFrame :=
  commandFrame_stick _ _

@[simp] theorem commandFrame_refuse (s : State) : s.refuse.commandFrame = s.commandFrame :=
  commandFrame_stick _ _

@[simp] theorem commandFrame_result (s : State) (v : ResultValue) : (s.result v).commandFrame = s.commandFrame := rfl

@[simp] theorem commandFrame_continueDispatch (s : State) (l : List Handler) :
    (s.continueDispatch l).commandFrame = s.commandFrame := by
  cases l with
  | nil => exact commandFrame_complete s
  | cons h l => exact commandFrame_goto s _

@[simp] theorem commandFrame_notify (s : State) (k : Nat) (ev : Event) (l : List Handler) :
    (s.notify k ev l).commandFrame = s.commandFrame := by
  unfold State.notify
  cases callbackOf s.cfg k ev with
  | nil => exact commandFrame_continueDispatch (s.emit k ev) l
  | cons w ws => exact commandFrame_setTop (s.emit k ev) _

@[simp] theorem commandFrame_readPort (p : Nat) (r : PortReg) (m : Word → MState) (s : State) :
    (readPort p r m s).commandFrame = s.commandFrame := by
  simp [readPort]

@[simp] theorem commandFrame_readSpi (k : Nat) (r : SpiReg) (m : Word → MState) (s : State) :
    (readSpi k r m s).commandFrame = s.commandFrame := by
  simp [readSpi]

/-! ## The micro-steps that commands share -/

@[simp] theorem commandFrame_routerStep (n p : Nat) (t : Trigger) (pos : RouterPos) (s : State) :
    (routerStep n p t pos s).2.commandFrame = s.commandFrame := by
  cases pos with
  | select => cases h : s.cfg.exticrMode <;> simp [routerStep, h]
  | setRead | setWrite _ | otherRead | otherWrite _ | selectWrite _ | maskRead | maskWrite _ => simp [routerStep]

theorem commandFrame_afterRouter {after : State → State} (hafter : ∀ u, (after u).commandFrame = u.commandFrame)
    (r : Option RouterPos × State) : (afterRouter after r).commandFrame = r.2.commandFrame := by
  unfold afterRouter
  split
  · exact commandFrame_goto _ _
  · exact hafter _

@[simp] theorem commandFrame_gpioStep (n p : Nat) (m : PinMode) (cfg : Word) (pos : GpioPos) (s : State) :
    (gpioStep n p m cfg pos s).commandFrame = s.commandFrame := by
  cases pos with
  | typeWrite v =>
    simp only [gpioStep]
    split <;> simp
  | moderWrite _ | speedRead | speedWrite _ | pullRead | pullWrite _ | typeRead | afRead | afWrite _ => simp [gpioStep]

@[simp] theorem commandFrame_gpioFirst (n p : Nat) (m : PinMode) (s : State) :
    (gpioFirst n p m s).commandFrame = s.commandFrame := by
  cases m with
  | interrupt t => simp [gpioFirst, commandFrame_afterRouter]
  | input | output | alternate | analog => exact commandFrame_readPort _ _ _ s

@[simp] theorem commandFrame_blockStep (k : Nat) (d : Direction) (pos : BlockPos) (s : State) :
    (blockStep k d pos s).commandFrame = s.commandFrame := by
  cases pos with
  | poll b len | frame b len | idle =>
    simp only [blockStep]
    split <;> simp
  | first b len f =>
    cases d with
    | tx => simp only [blockStep]; split <;> simp
    | rx => simp [blockStep]
  | second b len f x =>
    cases d with
    | tx => simp [blockStep]
    | rx => simp only [blockStep]; split <;> simp

@[simp] theorem commandFrame_startStep (k : Nat) (d : Direction) (buf len : Word) (pos : StartPos) (s : State) :
    (startStep k d buf len pos s).commandFrame = s.commandFrame := by
  cases pos <;> simp [startStep]

@[simp] theorem commandFrame_closeStep (k : Nat) (d : Direction) (pos : ClosePos) (s : State) :
    (closeStep k d pos s).2.commandFrame = s.commandFrame := by
  cases pos <;> simp [closeStep]

@[simp] theorem commandFrame_tickStep (k : Nat) (d : Direction) (rest : List Handler) (pos : TickPos) (s : State) :
    (tickStep k d rest pos s).commandFrame = s.commandFrame := by
  cases pos with
  | stRead | lenRead f | bufWrite f len b =>
    simp only [tickStep]
    split <;> simp
  | cr1Read | bufRead f len | lenWrite f len b => simp [tickStep]
  | first f len b =>
    cases d with
    | tx => simp only [tickStep]; split <;> simp
    | rx => simp [tickStep]
  | second f len b x =>
    cases d with
    | tx => simp [tickStep]
    | rx => simp only [tickStep]; split <;> simp
  | closing p =>
    have hclose := commandFrame_closeStep k d p s
    rcases hc : closeStep k d p s with ⟨_ | q, t⟩ <;> rw [hc] at hclose <;> simpa [tickStep, hc] using hclose

@[simp] theorem commandFrame_drainStep (k : Nat) (rest : List Handler) (pos : OvrPos) (s : State) :
    (drainStep k rest pos s).commandFrame = s.commandFrame := by
  cases pos with
  | stRead =>
    simp only [drainStep]
    split <;> simp
  | drRead | srRead => simp [drainStep]

@[simp] theorem commandFrame_crcBegin (k : Nat) (rest : List Handler) (s : State) :
    (crcBegin k rest s).commandFrame = s.commandFrame := by
  unfold crcBegin
  split <;> simp

@[simp] theorem commandFrame_beginHandler (k : Nat) (h : Handler) (rest : List Handler) (s : State) :
    (beginHandler k h rest s).commandFrame = s.commandFrame := by
  cases h <;> simp [beginHandler]

@[simp] theorem commandFrame_dispatchStep (k : Nat) (rest : List Handler) (s : State) :
    (dispatchStep k rest s).commandFrame = s.commandFrame := by
  cases rest <;> simp [dispatchStep]

/-! ## The commands -/

/-- An outcome that, when it is a next state, has the command frame of `s`. -/
def KeepsCommandFrame (s : State) (o : Outcome State Fault Refusal) : Prop :=
  ∀ t, o = .next t → t.commandFrame = s.commandFrame

@[simp] theorem keepsCommandFrame_next (s t : State) :
    KeepsCommandFrame s (.next t) ↔ t.commandFrame = s.commandFrame := by
  simp [KeepsCommandFrame]

@[simp] theorem keepsCommandFrame_fault (s : State) (r : Fault) : KeepsCommandFrame s (.fault r) := by
  simp [KeepsCommandFrame]

theorem execIrqSetEnabled_keepsCommandFrame (x : BitVec 8) (e : Bool) (s : State) :
    KeepsCommandFrame s (execIrqSetEnabled x e s) := by
  unfold execIrqSetEnabled
  split
  · split <;> simp
  · simp

theorem execIrqSetPriority_keepsCommandFrame (x p : BitVec 8) (s : State) :
    KeepsCommandFrame s (execIrqSetPriority x p s) := by
  simp only [execIrqSetPriority]
  split
  · repeat' split
    all_goals simp
  · simp
  · simp

theorem execExtiConfigure_keepsCommandFrame (n p c : BitVec 8) (s : State) :
    KeepsCommandFrame s (execExtiConfigure n p c s) := by
  unfold execExtiConfigure
  split
  · repeat' split
    all_goals simp [commandFrame_afterRouter]
  · split <;> simp [commandFrame_afterRouter]
  · simp

theorem execExtiHandle_keepsCommandFrame (n : BitVec 8) (s : State) : KeepsCommandFrame s (execExtiHandle n s) := by
  unfold execExtiHandle
  split
  · repeat' split
    all_goals simp
  · simp
  · simp

theorem execGpioConfigure_keepsCommandFrame (n p c : BitVec 8) (cfg : Word) (s : State) :
    KeepsCommandFrame s (execGpioConfigure n p c cfg s) := by
  unfold execGpioConfigure
  split
  · repeat' split
    all_goals simp
  · split <;> simp [commandFrame_afterRouter]
  · split <;> simp
  · simp

theorem execGpioReadPin_keepsCommandFrame (n p : BitVec 8) (s : State) :
    KeepsCommandFrame s (execGpioReadPin n p s) := by
  simp only [execGpioReadPin]
  split
  · repeat' split
    all_goals simp
  · simp

/-- GPIO_WRITE_PIN and GPIO_TOGGLE_PIN. -/
theorem odrUpdate_keepsCommandFrame (n p : BitVec 8) (f : Word → Word) (s : State) :
    KeepsCommandFrame s (odrUpdate n p f s) := by
  unfold odrUpdate
  split
  · repeat' split
    all_goals simp
  · simp
  · simp

theorem execSpiInit_keepsCommandFrame (i : BitVec 8) (dff errie : Bool) (cr1 : Word) (s : State) :
    KeepsCommandFrame s (execSpiInit i dff errie cr1 s) := by
  simp only [execSpiInit]
  split
  · repeat' split
    all_goals simp
  · simp
  · simp
  · simp

/-- SPI_TRANSMIT and SPI_RECEIVE. -/
theorem blockingTransfer_keepsCommandFrame (d : Direction) (i : BitVec 8) (buf len : Word) (s : State) :
    KeepsCommandFrame s (blockingTransfer d i buf len s) := by
  simp only [blockingTransfer]
  split
  · repeat' split
    all_goals simp
  · simp
  · simp

/-- SPI_START_TX and SPI_START_RX. -/
theorem startTransfer_keepsCommandFrame (d : Direction) (i : BitVec 8) (buf len : Word) (s : State) :
    KeepsCommandFrame s (startTransfer d i buf len s) := by
  simp only [startTransfer]
  split
  · repeat' split
    all_goals simp
  · simp
  · simp

/-- SPI_CLOSE_TX and SPI_CLOSE_RX. -/
theorem closeTransfer_keepsCommandFrame (d : Direction) (i : BitVec 8) (s : State) :
    KeepsCommandFrame s (closeTransfer d i s) := by
  simp only [closeTransfer]
  split
  · repeat' split
    all_goals simp
  · rename_i p _
    have hclose := commandFrame_closeStep i.toNat d p s
    rcases hc : closeStep i.toNat d p s with ⟨_ | q, t⟩ <;> rw [hc] at hclose <;> simpa using hclose
  · simp

theorem execSpiIrqHandle_keepsCommandFrame (i : BitVec 8) (s : State) :
    KeepsCommandFrame s (execSpiIrqHandle i s) := by
  simp only [execSpiIrqHandle]
  split
  · split <;> simp
  · simp
  · split <;> simp
  · simp
  · simp
  · simp
  · simp

/-- No command changes the command frame. -/
theorem exec_keepsCommandFrame (i : Instr) (s : State) : KeepsCommandFrame s (exec i s) := by
  cases i with
  | irqSetEnabled x e => exact execIrqSetEnabled_keepsCommandFrame x e s
  | irqSetPriority x p => exact execIrqSetPriority_keepsCommandFrame x p s
  | extiConfigure n p c => exact execExtiConfigure_keepsCommandFrame n p c s
  | extiHandle n => exact execExtiHandle_keepsCommandFrame n s
  | gpioConfigure n p c cfg => exact execGpioConfigure_keepsCommandFrame n p c cfg s
  | gpioReadPin n p => exact execGpioReadPin_keepsCommandFrame n p s
  | gpioWritePin n p v => exact odrUpdate_keepsCommandFrame n p _ s
  | gpioTogglePin n p => exact odrUpdate_keepsCommandFrame n p _ s
  | spiInit i dff errie cr1 => exact execSpiInit_keepsCommandFrame i dff errie cr1 s
  | spiTransmit i buf len => exact blockingTransfer_keepsCommandFrame .tx i buf len s
  | spiReceive i buf len => exact blockingTransfer_keepsCommandFrame .rx i buf len s
  | spiStartTx i buf len => exact startTransfer_keepsCommandFrame .tx i buf len s
  | spiStartRx i buf len => exact startTransfer_keepsCommandFrame .rx i buf len s
  | spiIrqHandle i => exact execSpiIrqHandle_keepsCommandFrame i s
  | spiCloseTx i => exact closeTransfer_keepsCommandFrame .tx i s
  | spiCloseRx i => exact closeTransfer_keepsCommandFrame .rx i s

theorem runTop_keepsCommandFrame (s : State) : KeepsCommandFrame s (runTop s) := by
  rcases runTop_cases s with ⟨-, h⟩ | ⟨-, i, ws, -, h⟩ | ⟨-, e, -, h⟩
  · rw [h, keepsCommandFrame_next]
  · rw [h]
    exact exec_keepsCommandFrame i s
  · rw [h, keepsCommandFrame_next, commandFrame_refuse]

end Sys2Proof.Machine
end

section
/-! SUPPORT. What one step does to the parameters and to the stack (60_exceptions.md R144, R145, R148). -/

namespace Sys2Proof.Machine

open Host (Outcome)

/-- A move changes neither the parameters nor the number of SPI instances. -/
theorem applyMove_keeps_parameters {m : Move} {s t : State} (h : applyMove m s = .next t) :
    t.cfg = s.cfg ∧ t.nSpi = s.nSpi := by
  cases m with
  | run o =>
    obtain ⟨hcfg, hspi, -⟩ := commandFrame_eq_iff.mp (runTop_keepsCommandFrame { s with order := o } t h)
    exact ⟨hcfg, hspi⟩
  | pend i | enter | pinChange p n | request i level =>
    cases h
    simp [State.nSpi]
  | spi k e =>
    cases h
    refine ⟨(spiEvent_fields s k e).1, ?_⟩
    unfold State.spiEvent
    split <;> simp

/-- What a step that is no return does to the stack: it enters the chosen source, it leaves every context as it is, or
the running context, which is not stuck, takes a micro-step and the contexts beneath it stay. -/
theorem applyMove_stack {m : Move} {s t : State} (h : applyMove m s = .next t) :
    (∃ i, s.chosen = some i ∧ t.stack = (s.takeInterrupt i).stack) ∨ t.stack = s.stack
      ∨ (s.top.stuck = none ∧ t.stack.suspended = s.stack.suspended) := by
  cases m with
  | run o =>
    obtain ⟨-, -, -, -, -, hstack⟩ := commandFrame_eq_iff.mp (runTop_keepsCommandFrame { s with order := o } t h)
    rcases runTop_cases { s with order := o } with ⟨-, hrun⟩ | ⟨hstuck, -⟩ | ⟨hstuck, -⟩
    · cases hrun.symm.trans h
      exact .inr (.inl rfl)
    · exact .inr (.inr ⟨hstuck, hstack⟩)
    · exact .inr (.inr ⟨hstuck, hstack⟩)
  | enter =>
    cases h
    rcases hc : s.chosen with _ | i
    · exact .inr (.inl (by rw [State.enterChosen, hc]))
    · exact .inl ⟨i, rfl, by rw [State.enterChosen, hc]⟩
  | pend i | pinChange p n | request i level | spi k e =>
    cases h
    exact .inr (.inl (by simp))

/-- What one step does to the stack: a due return, an entry of the chosen source, nothing, or a micro-step of the
running context, which is not stuck. -/
theorem step_stack {s t : State} (h : step s = .next t) :
    (s.mustReturn = true ∧ t.stack = s.returnInterrupt.stack)
      ∨ (∃ i, s.chosen = some i ∧ t.stack = (s.takeInterrupt i).stack) ∨ t.stack = s.stack
      ∨ (s.top.stuck = none ∧ t.stack.suspended = s.stack.suspended) := by
  rcases step_cases s with ⟨hm, hs⟩ | ⟨m, sched, moves, -, hs⟩
  · cases hs.symm.trans h
    exact .inl ⟨hm, rfl⟩
  · have hc : ({ s with sched := sched, moves := moves } : State).chosen = s.chosen := chosen_congr rfl rfl
    refine .inr ?_
    rw [← hc]
    exact applyMove_stack (hs.symm.trans h)

/-- A due return removes the top context, which has completed and so is not stuck, and leaves the others. -/
theorem returnInterrupt_stack_of_mustReturn {s : State} (h : s.mustReturn = true) :
    ∃ x l, s.stack.isrs = x :: l ∧ x.thread.stuck = none ∧ s.returnInterrupt.stack = { s.stack with isrs := l } := by
  unfold State.mustReturn at h
  unfold State.returnInterrupt
  rcases hl : s.stack.isrs with _ | ⟨x, l⟩
  · simp [hl] at h
  · refine ⟨x, l, rfl, ?_, rfl⟩
    have hx : x.thread.completed = true := by simpa [hl] using h
    simp only [Thread.completed, Bool.and_eq_true, Option.isNone_iff_eq_none] at hx
    exact hx.1.1

/-- The stuck contexts of a stack stand in another, as they are. -/
def Stack.KeepsStuck (k l : Stack) : Prop :=
  (k.fg.stuck.isSome = true → l.fg = k.fg) ∧ ∀ x ∈ k.isrs, x.thread.stuck.isSome = true → x ∈ l.isrs

/-- Where the running context is not stuck, the stuck ones are among those beneath it. -/
theorem Stack.keepsStuck_of_suspended_eq {k l : Stack} (htop : k.top.stuck = none)
    (h : l.suspended = k.suspended) : k.KeepsStuck l := by
  obtain ⟨-, htail, hfg⟩ := Stack.suspended_eq h
  unfold Stack.top at htop
  rcases hk : k.isrs with _ | ⟨i, is⟩
  · simp_all [Stack.KeepsStuck]
  · rw [hk] at htop htail hfg
    refine ⟨fun _ => hfg (List.cons_ne_nil i is), fun x hx hstuck => ?_⟩
    rcases List.mem_cons.mp (hk ▸ hx) with rfl | hx
    · simp [htop] at hstuck
    · exact List.mem_of_mem_tail (htail ▸ hx)

theorem step_keepsStuck {s t : State} (h : step s = .next t) : s.stack.KeepsStuck t.stack := by
  rcases step_stack h with ⟨hm, ht⟩ | ⟨i, -, ht⟩ | ht | ⟨htop, ht⟩
  · obtain ⟨x, l, hisrs, hx, hret⟩ := returnInterrupt_stack_of_mustReturn hm
    rw [ht, hret]
    refine ⟨fun _ => rfl, fun y hy hstuck => ?_⟩
    rcases List.mem_cons.mp (hisrs ▸ hy) with rfl | hy
    · simp [hx] at hstuck
    · exact hy
  · rw [ht]
    exact ⟨fun _ => rfl, fun x hx _ => List.mem_cons_of_mem _ hx⟩
  · rw [ht]
    exact ⟨fun _ => rfl, fun x hx _ => hx⟩
  · exact Stack.keepsStuck_of_suspended_eq htop ht

/-- Settles O11: a return keeps both, and so does every move. -/
theorem parametersNeverChange : Obligations.ParametersNeverChange := by
  intro s t h
  rcases step_cases s with ⟨-, hs⟩ | ⟨m, sched, moves, -, hs⟩
  · cases hs.symm.trans h
    simp [State.nSpi]
  · obtain ⟨hcfg, hspi⟩ := applyMove_keeps_parameters (hs.symm.trans h)
    exact ⟨hcfg, hspi⟩

/-- Settles O17: only a context that is not stuck is changed by a micro-step or removed by a return. -/
theorem stuckContextsStayAsTheyAre : Obligations.StuckContextsStayAsTheyAre :=
  fun _ _ h => step_keepsStuck h

end Sys2Proof.Machine
end

section
/-! SUPPORT. What a command can do, said once. Every command is made of a few operations: it moves its own context, it
writes registers of its own unit, it changes its own SPI device, it stores a frame, and it adds to the records. -/

namespace Sys2Proof.Machine

open Host (Outcome)

/-! ## The operations a command is made of -/

/-- The registers that are of a command's own unit. -/
def mayWrite (i : Instr) : Reg → Prop
  | .iser _ | .icer _ => ∃ x e, i = .irqSetEnabled x e
  | .ipr _ => ∃ x p, i = .irqSetPriority x p
  | .exti .pr => ∃ n, i = .extiHandle n
  | .exti .imr | .exti .rtsr | .exti .ftsr | .exticr _ => routesLines i = true
  | .gpio p _ => commandPort i = some p
  | .spi k _ => commandInstance i = some k

/-- Command `i` may lead from `s` to the state: some sequence of the operations it is made of does. -/
inductive CommandEffect (i : Instr) (s : State) : State → Prop
  | unchanged : CommandEffect i s s
  | context {t : State} (u : Thread) (ht : CommandEffect i s t) : CommandEffect i s (t.setTop u)
  | write {t : State} {r : Reg} (v : Word) (hr : mayWrite i r) (ht : CommandEffect i s t) :
      CommandEffect i s (t.regWrite r v)
  | device {t : State} {k : Nat} {f : Spi → Spi} (hk : commandInstance i = some k) (hf : ∀ x, (f x).txout = x.txout)
      (ht : CommandEffect i s t) : CommandEffect i s (t.mapInst k f)
  | store {t : State} (a : Word) (f : FrameSize) (v : Word) (ht : CommandEffect i s t) :
      CommandEffect i s (t.storeFrame a f v)
  | event {t : State} (k : Nat) (ev : Event) (ht : CommandEffect i s t) : CommandEffect i s (t.emit k ev)
  | result {t : State} (v : ResultValue) (ht : CommandEffect i s t) : CommandEffect i s (t.result v)
  | fault {t : State} (r : FaultRecord) (ht : CommandEffect i s t) :
      CommandEffect i s { t with faults := t.faults.insert r }

/-! ## `TXOUT` is no command's (10_state.md R38) -/

@[simp] theorem txout_setTc (x : Spi) (d : Direction) (c : TransferCtx) : (x.setTc d c).txout = x.txout := by
  cases d <;> rfl

@[simp] theorem txout_afterSrRead (p : FieldPos) (x : Spi) : (x.afterSrRead p).txout = x.txout := by
  unfold Spi.afterSrRead
  split <;> rfl

@[simp] theorem txout_afterDrRead (p : FieldPos) (x : Spi) : (x.afterDrRead p).txout = x.txout := rfl

@[simp] theorem txout_put (p : FieldPos) (x : Spi) (r : SpiReg) (v : Word) : (x.put p r v).txout = x.txout := by
  cases r with
  | sr => simp only [Spi.put, Spi.afterSrWrite]; split <;> rfl
  | cr1 | cr2 | dr => rfl

/-! ## The shared operations -/

section Operations

variable {i : Instr} {s t : State} {k : Nat}

@[simp] theorem CommandEffect.goto (m : MState) (ht : CommandEffect i s t) : CommandEffect i s (t.goto m) :=
  ht.context _

@[simp] theorem CommandEffect.complete (ht : CommandEffect i s t) : CommandEffect i s t.complete := ht.context _

@[simp] theorem CommandEffect.stick (w : Stuck) (ht : CommandEffect i s t) : CommandEffect i s (t.stick w) :=
  ht.context _

@[simp] theorem CommandEffect.raise (c : FaultCode) (ht : CommandEffect i s t) : CommandEffect i s (t.raise c) :=
  (ht.fault _).stick _

@[simp] theorem CommandEffect.continueDispatch (l : List Handler) (ht : CommandEffect i s t) :
    CommandEffect i s (t.continueDispatch l) := by
  cases l with
  | nil => exact ht.complete
  | cons h l => exact ht.goto _

@[simp] theorem CommandEffect.notify (ev : Event) (l : List Handler) (ht : CommandEffect i s t) :
    CommandEffect i s (t.notify k ev l) := by
  unfold State.notify
  cases callbackOf t.cfg k ev with
  | nil => exact (ht.event k ev).continueDispatch l
  | cons w ws => exact (ht.event k ev).context _

@[simp] theorem CommandEffect.setBuf (d : Direction) (v : Word) (hk : commandInstance i = some k)
    (ht : CommandEffect i s t) : CommandEffect i s (t.setBuf k d v) := ht.device hk (by simp)

@[simp] theorem CommandEffect.setLen (d : Direction) (v : Word) (hk : commandInstance i = some k)
    (ht : CommandEffect i s t) : CommandEffect i s (t.setLen k d v) := ht.device hk (by simp)

@[simp] theorem CommandEffect.setSt (d : Direction) (v : TransferState) (hk : commandInstance i = some k)
    (ht : CommandEffect i s t) : CommandEffect i s (t.setSt k d v) := ht.device hk (by simp)

@[simp] theorem CommandEffect.setBlk (b : Bool) (hk : commandInstance i = some k) (ht : CommandEffect i s t) :
    CommandEffect i s (t.setBlk k b) := ht.device hk (fun _ => rfl)

@[simp] theorem afterRead_gpio (s : State) (p : Nat) (r : PortReg) : s.afterRead (.gpio p r) = s := rfl

@[simp] theorem afterRead_exti (s : State) (e : ExtiReg) : s.afterRead (.exti e) = s := rfl

@[simp] theorem afterRead_exticr (s : State) (n : Nat) : s.afterRead (.exticr n) = s := rfl

@[simp] theorem afterRead_ipr (s : State) (n : Nat) : s.afterRead (.ipr n) = s := rfl

@[simp] theorem afterRead_firstTrigger (s : State) (c : Trigger) : s.afterRead (firstTrigger c) = s := by
  cases c <;> rfl

@[simp] theorem afterRead_otherTrigger (s : State) (c : Trigger) : s.afterRead (otherTrigger c) = s := by
  cases c <;> rfl

@[simp] theorem CommandEffect.readInst (r : SpiReg) (hk : commandInstance i = some k) (ht : CommandEffect i s t) :
    CommandEffect i s (t.afterRead (.spi k r)) := by
  cases r with
  | cr1 | cr2 => exact ht
  | sr => exact ht.device hk (txout_afterSrRead _)
  | dr => exact ht.device hk (txout_afterDrRead _)

@[simp] theorem CommandEffect.writeInst (r : SpiReg) (v : Word) (hk : commandInstance i = some k)
    (ht : CommandEffect i s t) : CommandEffect i s (t.regWrite (.spi k r) v) := ht.write v hk

@[simp] theorem CommandEffect.writePort {p : Nat} (r : PortReg) (v : Word) (hp : commandPort i = some p)
    (ht : CommandEffect i s t) : CommandEffect i s (t.regWrite (.gpio p r) v) := ht.write v hp

@[simp] theorem CommandEffect.writeSelector (n : Nat) (v : Word) (hl : routesLines i = true)
    (ht : CommandEffect i s t) : CommandEffect i s (t.regWrite (.exticr n) v) := ht.write v hl

@[simp] theorem CommandEffect.writeMask (v : Word) (hl : routesLines i = true) (ht : CommandEffect i s t) :
    CommandEffect i s (t.regWrite (.exti .imr) v) := ht.write v hl

@[simp] theorem CommandEffect.writeFirstTrigger (c : Trigger) (v : Word) (hl : routesLines i = true)
    (ht : CommandEffect i s t) : CommandEffect i s (t.regWrite (firstTrigger c) v) :=
  ht.write v (by cases c <;> exact hl)

@[simp] theorem CommandEffect.writeOtherTrigger (c : Trigger) (v : Word) (hl : routesLines i = true)
    (ht : CommandEffect i s t) : CommandEffect i s (t.regWrite (otherTrigger c) v) :=
  ht.write v (by cases c <;> exact hl)

@[simp] theorem CommandEffect.readPort (p : Nat) (r : PortReg) (m : Word → MState) (ht : CommandEffect i s t) :
    CommandEffect i s (readPort p r m t) := ht.goto _

@[simp] theorem CommandEffect.readSpi (r : SpiReg) (m : Word → MState) (hk : commandInstance i = some k)
    (ht : CommandEffect i s t) : CommandEffect i s (readSpi k r m t) := (ht.readInst r hk).goto _

/-! ## The micro-steps that commands share -/

@[simp] theorem CommandEffect.routerStep (n p : Nat) (c : Trigger) (pos : RouterPos) (hl : routesLines i = true)
    (ht : CommandEffect i s t) : CommandEffect i s (routerStep n p c pos t).2 := by
  cases pos with
  | select => cases hm : t.cfg.exticrMode <;> simp [Machine.routerStep, hm, hl, ht]
  | setRead | setWrite _ | otherRead | otherWrite _ | selectWrite _ | maskRead | maskWrite _ =>
    simp [Machine.routerStep, hl, ht]

theorem CommandEffect.afterRouter {after : State → State} {r : Option RouterPos × State}
    (hafter : ∀ u, CommandEffect i s u → CommandEffect i s (after u)) (hr : CommandEffect i s r.2) :
    CommandEffect i s (afterRouter after r) := by
  unfold Machine.afterRouter
  split
  · exact hr.goto _
  · exact hafter _ hr

@[simp] theorem CommandEffect.gpioStep {p : Nat} (n : Nat) (m : PinMode) (cfg : Word) (pos : GpioPos)
    (hp : commandPort i = some p) (ht : CommandEffect i s t) : CommandEffect i s (gpioStep n p m cfg pos t) := by
  cases pos with
  | typeWrite v =>
    simp only [Machine.gpioStep]
    split <;> simp [hp, ht]
  | moderWrite _ | speedRead | speedWrite _ | pullRead | pullWrite _ | typeRead | afRead | afWrite _ =>
    simp [Machine.gpioStep, hp, ht]

@[simp] theorem CommandEffect.gpioFirst (n p : Nat) (m : PinMode) (hl : routesLines i = true)
    (ht : CommandEffect i s t) : CommandEffect i s (gpioFirst n p m t) := by
  cases m with
  | interrupt c =>
    exact CommandEffect.afterRouter (fun _ hu => hu.goto (.gpio .speedRead)) (ht.routerStep n p c .setRead hl)
  | input | output | alternate | analog => exact ht.goto _

@[simp] theorem CommandEffect.blockStep (d : Direction) (pos : BlockPos) (hk : commandInstance i = some k)
    (ht : CommandEffect i s t) : CommandEffect i s (blockStep k d pos t) := by
  cases pos with
  | poll b len | frame b len =>
    simp only [Machine.blockStep]
    split <;> simp [hk, ht]
  | idle =>
    simp only [Machine.blockStep]
    split
    · exact ht.readInst .sr hk
    · exact ((ht.readInst .sr hk).setBlk false hk).complete
  | first b len f =>
    cases d with
    | tx => simp only [Machine.blockStep]; split <;> simp [ht]
    | rx => simp [Machine.blockStep, hk, ht]
  | second b len f x =>
    cases d with
    | tx => simp [Machine.blockStep, hk, ht]
    | rx => simp only [Machine.blockStep]; split <;> simp [ht, CommandEffect.store]

@[simp] theorem CommandEffect.startStep (d : Direction) (buf len : Word) (pos : StartPos)
    (hk : commandInstance i = some k) (ht : CommandEffect i s t) : CommandEffect i s (startStep k d buf len pos t) := by
  cases pos with
  | cr2Write v => exact ((ht.writeInst .cr2 _ hk).result _).complete
  | bufWrite | lenWrite | stWrite | cr2Read => simp [Machine.startStep, hk, ht]

@[simp] theorem CommandEffect.closeStep (d : Direction) (pos : ClosePos) (hk : commandInstance i = some k)
    (ht : CommandEffect i s t) : CommandEffect i s (closeStep k d pos t).2 := by
  cases pos <;> simp [Machine.closeStep, hk, ht]

@[simp] theorem CommandEffect.tickStep (d : Direction) (rest : List Handler) (pos : TickPos)
    (hk : commandInstance i = some k) (ht : CommandEffect i s t) : CommandEffect i s (tickStep k d rest pos t) := by
  cases pos with
  | stRead | lenRead f | bufWrite f len b =>
    simp only [Machine.tickStep]
    split <;> simp [hk, ht]
  | cr1Read | bufRead f len | lenWrite f len b => simp [Machine.tickStep, hk, ht]
  | first f len b =>
    cases d with
    | tx => simp only [Machine.tickStep]; split <;> simp [ht]
    | rx => simp [Machine.tickStep, hk, ht]
  | second f len b x =>
    cases d with
    | tx => simp [Machine.tickStep, hk, ht]
    | rx => simp only [Machine.tickStep]; split <;> simp [ht, CommandEffect.store]
  | closing p =>
    have hclose := ht.closeStep d p hk
    rcases hc : Machine.closeStep k d p t with ⟨_ | q, u⟩ <;> rw [hc] at hclose <;>
      simp [Machine.tickStep, hc, hclose]

@[simp] theorem CommandEffect.drainStep (rest : List Handler) (pos : OvrPos) (hk : commandInstance i = some k)
    (ht : CommandEffect i s t) : CommandEffect i s (drainStep k rest pos t) := by
  cases pos with
  | stRead =>
    simp only [Machine.drainStep]
    split <;> simp [ht]
  | drRead | srRead => simp [Machine.drainStep, hk, ht]

@[simp] theorem CommandEffect.beginHandler (h : Handler) (rest : List Handler) (ht : CommandEffect i s t) :
    CommandEffect i s (beginHandler k h rest t) := by
  cases h with
  | crc => simp only [Machine.beginHandler, crcBegin]; split <;> simp [ht]
  | tick d | ovr => exact ht.goto _

@[simp] theorem CommandEffect.dispatchStep (rest : List Handler) (hk : commandInstance i = some k)
    (ht : CommandEffect i s t) : CommandEffect i s (dispatchStep k rest t) := by
  cases rest <;> simp [Machine.dispatchStep, hk, ht]

end Operations

/-! ## The commands -/

/-- An outcome that, when it is a next state, is one command `i` may lead to from `s`. -/
def OutcomeOf (i : Instr) (s : State) (o : Outcome State Fault Refusal) : Prop :=
  ∀ t, o = .next t → CommandEffect i s t

@[simp] theorem outcomeOf_next (i : Instr) (s t : State) : OutcomeOf i s (.next t) ↔ CommandEffect i s t := by
  simp [OutcomeOf]

theorem CommandEffect.next {i : Instr} {s t : State} (ht : CommandEffect i s t) : OutcomeOf i s (.next t) :=
  (outcomeOf_next i s t).mpr ht

@[simp] theorem outcomeOf_fault (i : Instr) (s : State) (r : Fault) : OutcomeOf i s (.fault r) := by
  simp [OutcomeOf]

theorem execIrqSetEnabled_effect (x : BitVec 8) (e : Bool) (s : State) :
    OutcomeOf (.irqSetEnabled x e) s (execIrqSetEnabled x e s) := by
  have hbank : mayWrite (.irqSetEnabled x e) (if e then .iser (bankOf x.toNat) else .icer (bankOf x.toNat)) := by
    cases e <;> exact ⟨x, _, rfl⟩
  unfold execIrqSetEnabled
  split
  · split
    · simp [CommandEffect.unchanged]
    · exact (CommandEffect.unchanged.write _ hbank).complete.next
  · simp

theorem execIrqSetPriority_effect (x p : BitVec 8) (s : State) :
    OutcomeOf (.irqSetPriority x p) s (execIrqSetPriority x p s) := by
  simp only [execIrqSetPriority]
  split
  · repeat' split
    all_goals simp [CommandEffect.unchanged]
  · exact (CommandEffect.unchanged.write (r := .ipr _) _ ⟨x, p, rfl⟩).complete.next
  · simp

theorem execExtiConfigure_effect (n p c : BitVec 8) (s : State) :
    OutcomeOf (.extiConfigure n p c) s (execExtiConfigure n p c s) := by
  have hrouter (t : Trigger) (pos : RouterPos) : CommandEffect (.extiConfigure n p c) s
      (afterRouter State.complete (routerStep n.toNat p.toNat t pos s)) :=
    CommandEffect.afterRouter (fun _ hu => hu.complete) (CommandEffect.unchanged.routerStep n.toNat p.toNat t pos rfl)
  unfold execExtiConfigure
  split
  · repeat' split
    all_goals simp [CommandEffect.unchanged, hrouter]
  · split <;> simp [hrouter]
  · simp

theorem execExtiHandle_effect (n : BitVec 8) (s : State) : OutcomeOf (.extiHandle n) s (execExtiHandle n s) := by
  unfold execExtiHandle
  split
  · repeat' split
    all_goals simp [CommandEffect.unchanged]
  · exact (CommandEffect.unchanged.write (r := .exti .pr) _ ⟨n, rfl⟩).complete.next
  · simp

theorem execGpioConfigure_effect (n p c : BitVec 8) (cfg : Word) (s : State) :
    OutcomeOf (.gpioConfigure n p c cfg) s (execGpioConfigure n p c cfg s) := by
  have hlines : routesLines (.gpioConfigure n p c cfg) = true := rfl
  have hport : commandPort (.gpioConfigure n p c cfg) = some p.toNat := rfl
  unfold execGpioConfigure
  split
  · repeat' split
    all_goals simp [CommandEffect.unchanged, hlines]
  · split
    · rename_i pos _ _ t _
      exact (CommandEffect.afterRouter (fun _ hu => hu.goto _)
        (CommandEffect.unchanged.routerStep n.toNat p.toNat t pos hlines)).next
    · simp
  · split <;> simp [CommandEffect.unchanged, hport]
  · simp

theorem execGpioReadPin_effect (n p : BitVec 8) (s : State) :
    OutcomeOf (.gpioReadPin n p) s (execGpioReadPin n p s) := by
  simp only [execGpioReadPin]
  split
  · repeat' split
    all_goals simp [CommandEffect.unchanged, CommandEffect.result]
  · simp

/-- GPIO_WRITE_PIN and GPIO_TOGGLE_PIN. -/
theorem odrUpdate_effect {i : Instr} (n p : BitVec 8) (f : Word → Word) (s : State)
    (hp : commandPort i = some p.toNat) : OutcomeOf i s (odrUpdate n p f s) := by
  unfold odrUpdate
  split
  · repeat' split
    all_goals simp [CommandEffect.unchanged]
  · simp [CommandEffect.unchanged, hp]
  · simp

theorem execSpiInit_effect (k : BitVec 8) (dff errie : Bool) (cr1 : Word) (s : State) :
    OutcomeOf (.spiInit k dff errie cr1) s (execSpiInit k dff errie cr1 s) := by
  simp only [execSpiInit]
  split
  · repeat' split
    all_goals simp [CommandEffect.unchanged]
  · exact ((CommandEffect.unchanged.writeInst .cr1 _ rfl).goto _).next
  · exact (CommandEffect.unchanged.writeInst .cr2 _ rfl).complete.next
  · simp

/-- SPI_TRANSMIT and SPI_RECEIVE. -/
theorem blockingTransfer_effect {i : Instr} (d : Direction) (k : BitVec 8) (buf len : Word) (s : State)
    (hk : commandInstance i = some k.toNat) : OutcomeOf i s (blockingTransfer d k buf len s) := by
  simp only [blockingTransfer]
  split
  · repeat' split
    all_goals simp [CommandEffect.unchanged, hk]
  · simp [CommandEffect.unchanged, hk]
  · simp

/-- SPI_START_TX and SPI_START_RX. -/
theorem startTransfer_effect {i : Instr} (d : Direction) (k : BitVec 8) (buf len : Word) (s : State)
    (hk : commandInstance i = some k.toNat) : OutcomeOf i s (startTransfer d k buf len s) := by
  have hfused : CommandEffect i s ((((s.setBuf k.toNat d buf).setLen k.toNat d len).setSt k.toNat d .busy).goto
      (.start .cr2Read)) :=
    (((CommandEffect.unchanged.setBuf d buf hk).setLen d len hk).setSt d .busy hk).goto _
  simp only [startTransfer]
  split
  · repeat' split
    all_goals simp [CommandEffect.unchanged, CommandEffect.result, hfused]
  · simp [CommandEffect.unchanged, hk]
  · simp

/-- SPI_CLOSE_TX and SPI_CLOSE_RX. -/
theorem closeTransfer_effect {i : Instr} (d : Direction) (k : BitVec 8) (s : State)
    (hk : commandInstance i = some k.toNat) : OutcomeOf i s (closeTransfer d k s) := by
  simp only [closeTransfer]
  split
  · repeat' split
    all_goals simp [CommandEffect.unchanged]
  · rename_i p _
    have hclose := (CommandEffect.unchanged (i := i) (s := s)).closeStep d p hk
    rcases hc : closeStep k.toNat d p s with ⟨_ | q, t⟩ <;> rw [hc] at hclose <;> simp [hclose]
  · simp

theorem execSpiIrqHandle_effect (k : BitVec 8) (s : State) :
    OutcomeOf (.spiIrqHandle k) s (execSpiIrqHandle k s) := by
  have hk : commandInstance (.spiIrqHandle k) = some k.toNat := rfl
  simp only [execSpiIrqHandle]
  split
  · split <;> simp [CommandEffect.unchanged, hk]
  · simp [CommandEffect.unchanged, hk]
  · split <;> simp [CommandEffect.unchanged, hk]
  · simp [CommandEffect.unchanged, hk]
  · simp [CommandEffect.unchanged, hk]
  · simp [CommandEffect.unchanged, hk]
  · simp

/-- Every micro-step of a command is made of the operations above, in the command's own unit. -/
theorem exec_effect (i : Instr) (s : State) : OutcomeOf i s (exec i s) := by
  cases i with
  | irqSetEnabled x e => exact execIrqSetEnabled_effect x e s
  | irqSetPriority x p => exact execIrqSetPriority_effect x p s
  | extiConfigure n p c => exact execExtiConfigure_effect n p c s
  | extiHandle n => exact execExtiHandle_effect n s
  | gpioConfigure n p c cfg => exact execGpioConfigure_effect n p c cfg s
  | gpioReadPin n p => exact execGpioReadPin_effect n p s
  | gpioWritePin n p v => exact odrUpdate_effect n p _ s rfl
  | gpioTogglePin n p => exact odrUpdate_effect n p _ s rfl
  | spiInit k dff errie cr1 => exact execSpiInit_effect k dff errie cr1 s
  | spiTransmit k buf len => exact blockingTransfer_effect .tx k buf len s rfl
  | spiReceive k buf len => exact blockingTransfer_effect .rx k buf len s rfl
  | spiStartTx k buf len => exact startTransfer_effect .tx k buf len s rfl
  | spiStartRx k buf len => exact startTransfer_effect .rx k buf len s rfl
  | spiIrqHandle k => exact execSpiIrqHandle_effect k s
  | spiCloseTx k => exact closeTransfer_effect .tx k s rfl
  | spiCloseRx k => exact closeTransfer_effect .rx k s rfl

end Sys2Proof.Machine
end

section
/-! SUPPORT. What a step can do, said once: a due return, the effect of the decoded command of the running context, or a
step of one of the other agents (60_exceptions.md R148). -/

namespace Sys2Proof.Machine

open Host (Outcome)

/-- The state with other values of the model's own choice fields (logs 2 and 4). -/
def State.withChoices (s : State) (sched : List Move) (moves : Nat) (order : Order) : State :=
  { s with sched := sched, moves := moves, order := order }

/-- What an agent that moves can lead to. -/
inductive AgentEffect (s : State) : State → Prop
  | idle : AgentEffect s s
  | refuse : AgentEffect s s.refuse
  | command {i : Instr} {ws : List Word} {t : State} (hd : decode s.fetchWords = .ok (i, ws))
      (ht : CommandEffect i s t) : AgentEffect s t
  | pend (i : Nat) : AgentEffect s (s.pendSource i)
  | enter : AgentEffect s s.enterChosen
  | pin (p : Fin 9) (n : Fin 16) : AgentEffect s (s.changePin p n)
  | request (i : Nat) (level : Bool) : AgentEffect s (s.setRequest i level)
  | spi (k : Nat) (e : SpiEvent) : AgentEffect s (s.spiEvent k e)

theorem runTop_effect {s t : State} (h : runTop s = .next t) : AgentEffect s t := by
  rcases runTop_cases s with ⟨-, hrun⟩ | ⟨-, i, ws, hd, hrun⟩ | ⟨-, e, -, hrun⟩
  · cases hrun.symm.trans h
    exact .idle
  · exact .command hd (exec_effect i s t (hrun.symm.trans h))
  · cases hrun.symm.trans h
    exact .refuse

theorem applyMove_effect {m : Move} {s t : State} (h : applyMove m s = .next t) :
    ∃ o, AgentEffect { s with order := o } t := by
  cases m with
  | run o => exact ⟨o, runTop_effect h⟩
  | pend i => cases h; exact ⟨s.order, .pend i⟩
  | enter => cases h; exact ⟨s.order, .enter⟩
  | pinChange p n => cases h; exact ⟨s.order, .pin p n⟩
  | request i level => cases h; exact ⟨s.order, .request i level⟩
  | spi k e => cases h; exact ⟨s.order, .spi k e⟩

/-- A step is a due return, or the effect of an agent on the state that has drawn the move. -/
theorem step_effect {s t : State} (h : step s = .next t) :
    t = s.returnInterrupt ∨ ∃ sched moves order, AgentEffect (s.withChoices sched moves order) t := by
  rcases step_cases s with ⟨-, hs⟩ | ⟨m, sched, moves, -, hs⟩
  · cases hs.symm.trans h
    exact .inl rfl
  · obtain ⟨o, ho⟩ := applyMove_effect (hs.symm.trans h)
    exact .inr ⟨sched, moves, o, ho⟩

end Sys2Proof.Machine
end

section
/-! SUPPORT. The controller in every step: which bits can be set, and by whom (10_state.md R15 to R18). -/

namespace Sys2Proof.Machine

/-! ## Bits of absent sources (R16, R18) -/

/-- A union of bits that lie in a mask lies in it. -/
theorem or_and_eq_of_and_eq {w : Nat} {x y m : BitVec w} (hx : x &&& m = x) (hy : y &&& m = y) :
    (x ||| y) &&& m = x ||| y := by
  rw [BitVec.and_comm, BitVec.and_or_distrib_left, BitVec.and_comm m x, BitVec.and_comm m y, hx, hy]

/-- Clearing bits keeps a vector in a mask. -/
theorem and_and_eq_of_and_eq {w : Nat} {x m : BitVec w} (y : BitVec w) (hx : x &&& m = x) :
    (x &&& y) &&& m = x &&& y := by
  rw [BitVec.and_assoc, BitVec.and_comm y m, ← BitVec.and_assoc, hx]

theorem sourceBit_and_presentSources {i n : Nat} (hi : i < n) (hn : n ≤ 240) :
    sourceBit i &&& presentSources n = sourceBit i := by
  refine BitVec.eq_of_getLsbD_eq fun j _ => ?_
  rw [BitVec.getLsbD_and, getLsbD_presentSources n j hn, getLsbD_sourceBit]
  grind

/-! ## The operations keep the controller well-formed -/

theorem controllerWf_congr {s t : State} (hcfg : t.cfg = s.cfg) (hnvic : t.nvic = s.nvic) :
    t.controllerWf ↔ s.controllerWf := by
  simp only [State.controllerWf, hcfg, hnvic]

theorem controllerWf_regWrite {s : State} (h : s.controllerWf) (r : Reg) (v : Word) :
    (s.regWrite r v).controllerWf := by
  obtain ⟨hen, hpend, hact, hipr⟩ := h
  cases r with
  | iser b =>
    exact ⟨or_and_eq_of_and_eq hen (by simp [BitVec.and_assoc]), hpend, hact, hipr⟩
  | icer b => exact ⟨and_and_eq_of_and_eq _ hen, hpend, hact, hipr⟩
  | ipr q =>
    refine ⟨hen, hpend, hact, fun r => ?_⟩
    by_cases hq : q = r.val
    · simp [State.regWrite, hq, BitVec.and_assoc]
    · simpa [State.regWrite, hq] using hipr r
  | exti e | exticr n | gpio p r | spi k r => exact ⟨hen, hpend, hact, hipr⟩

theorem CommandEffect.controllerWf {i : Instr} {s t : State} (h : CommandEffect i s t) (hs : s.controllerWf) :
    t.controllerWf := by
  induction h with
  | unchanged => exact hs
  | write v hr _ ih => exact controllerWf_regWrite ih _ v
  | context _ _ ih | device _ _ _ ih | store _ _ _ _ ih | event _ _ _ ih | result _ _ ih | fault _ _ ih => exact ih

theorem controllerWf_pendSource {s : State} (h : s.controllerWf) (i : Nat) : (s.pendSource i).controllerWf := by
  obtain ⟨hen, hpend, hact, hipr⟩ := h
  unfold State.pendSource
  split
  · rename_i hc
    simp only [Bool.and_eq_true, decide_eq_true_eq] at hc
    have hbit := sourceBit_and_presentSources hc.1.1 (Nat.le_of_lt_succ s.cfg.nIrq.isLt)
    exact ⟨hen, or_and_eq_of_and_eq hpend hbit, hact, hipr⟩
  · exact ⟨hen, hpend, hact, hipr⟩

/-- An entry takes a present source (R143). -/
theorem controllerWf_enterChosen {s : State} (h : s.controllerWf) : s.enterChosen.controllerWf := by
  obtain ⟨hen, hpend, hact, hipr⟩ := h
  unfold State.enterChosen
  split
  · rename_i i hi
    have hbit := sourceBit_and_presentSources (chosen_spec s i hi).1 (Nat.le_of_lt_succ s.cfg.nIrq.isLt)
    exact ⟨hen, and_and_eq_of_and_eq _ hpend, or_and_eq_of_and_eq hact hbit, hipr⟩
  · exact ⟨hen, hpend, hact, hipr⟩

theorem controllerWf_returnInterrupt {s : State} (h : s.controllerWf) : s.returnInterrupt.controllerWf := by
  obtain ⟨hen, hpend, hact, hipr⟩ := h
  unfold State.returnInterrupt
  split
  · exact ⟨hen, hpend, hact, hipr⟩
  · exact ⟨hen, hpend, and_and_eq_of_and_eq _ hact, hipr⟩

theorem AgentEffect.controllerWf {s t : State} (h : AgentEffect s t) (hs : s.controllerWf) : t.controllerWf := by
  cases h with
  | idle | refuse => exact hs
  | command _ ht => exact ht.controllerWf hs
  | pend i => exact controllerWf_pendSource hs i
  | enter => exact controllerWf_enterChosen hs
  | pin p n | request i level | spi k e => exact (controllerWf_congr (by simp) (by simp)).mpr hs

/-- Settles O9: a return clears an active bit, and the effect of every agent keeps the controller well-formed. -/
theorem controllerStaysWellFormed : Obligations.ControllerStaysWellFormed := by
  intro s t hs h
  rcases step_effect h with rfl | ⟨sched, moves, order, ht⟩
  · exact controllerWf_returnInterrupt hs
  · exact ht.controllerWf hs

/-! ## Enables (R15) -/

/-- No command but IRQ_SET_ENABLED changes an enable bit: the enable and disable banks are its alone. -/
theorem CommandEffect.enables_eq {i : Instr} {s t : State} (h : CommandEffect i s t)
    (hi : ∀ x e, i ≠ .irqSetEnabled x e) : t.nvic.en = s.nvic.en := by
  induction h with
  | unchanged => rfl
  | @write t r v hr _ ih =>
    cases r with
    | iser b | icer b =>
      obtain ⟨x, e, hx⟩ := hr
      exact absurd hx (hi x e)
    | ipr q | exti e | exticr n | gpio p r | spi k r => exact ih
  | context _ _ ih | device _ _ _ ih | store _ _ _ _ ih | event _ _ _ ih | result _ _ ih | fault _ _ ih => exact ih

@[simp] theorem enables_pendSource (s : State) (i : Nat) : (s.pendSource i).nvic.en = s.nvic.en := by
  unfold State.pendSource
  split <;> rfl

@[simp] theorem enables_enterChosen (s : State) : s.enterChosen.nvic.en = s.nvic.en := by
  unfold State.enterChosen
  split <;> rfl

/-- An agent that changes an enable bit is the running context, in IRQ_SET_ENABLED. -/
theorem AgentEffect.enables_cases {s t : State} (h : AgentEffect s t) :
    t.nvic.en = s.nvic.en ∨ ∃ x e ws, decode s.fetchWords = .ok (.irqSetEnabled x e, ws) := by
  cases h with
  | @command i ws _ hd ht =>
    by_cases hi : ∃ x e, i = .irqSetEnabled x e
    · obtain ⟨x, e, rfl⟩ := hi
      exact .inr ⟨x, e, ws, hd⟩
    · exact .inl (ht.enables_eq fun x e hx => hi ⟨x, e, hx⟩)
  | idle | refuse => exact .inl rfl
  | pend i | enter | pin p n | request i level | spi k e => exact .inl (by simp)

/-- Settles O13: a return keeps EN, and so does every agent but the running context in IRQ_SET_ENABLED. -/
theorem onlySetEnabledChangesEnables : Obligations.OnlySetEnabledChangesEnables := by
  intro s t h hne
  rcases step_effect h with rfl | ⟨sched, moves, order, ht⟩
  · exact absurd (returnInterrupt_nvic s).1 hne
  · exact ht.enables_cases.resolve_left hne

end Sys2Proof.Machine
end

section
/-! SUPPORT. The records in every step: LOG, RES and TXOUT grow at their end, FAULT gains members, REFUSED stays
(10_state.md R38, R43, R44). -/

namespace Sys2Proof.Machine

/-- Changing one of the SPI devices applies the function to it, and changes nothing where there is no such device. -/
theorem inst_mapInst_cases (s : State) (k : Nat) (f : Spi → Spi) (j : Nat) :
    (s.mapInst k f).inst j = s.inst j ∨ (j = k ∧ (s.mapInst k f).inst j = f (s.inst j)) := by
  by_cases hk : k < s.nSpi
  · rw [inst_mapInst s k f j hk]
    split <;> simp_all
  · refine .inl ?_
    simp only [State.nSpi, Nat.not_lt] at hk
    simp [State.inst, State.mapInst, State.setInst, List.set_eq_of_length_le hk]

/-- The records of one state are extended by those of another. -/
structure RecordsExtend (s t : State) : Prop where
  log : s.log <+: t.log
  res : s.res <+: t.res
  faults : s.faults ⊆ t.faults
  refused : s.refused = true → t.refused = true
  txout : ∀ k, (s.inst k).txout <+: (t.inst k).txout

theorem RecordsExtend.refl (s : State) : RecordsExtend s s :=
  ⟨List.prefix_refl _, List.prefix_refl _, List.Subset.refl _, id, fun _ => List.prefix_refl _⟩

theorem RecordsExtend.trans {s t u : State} (h : RecordsExtend s t) (g : RecordsExtend t u) : RecordsExtend s u :=
  ⟨h.log.trans g.log, h.res.trans g.res, List.Subset.trans h.faults g.faults, fun hs => g.refused (h.refused hs),
    fun k => (h.txout k).trans (g.txout k)⟩

/-! ## The operations -/

theorem recordsExtend_mapInst (s : State) (k : Nat) {f : Spi → Spi} (hf : ∀ x, x.txout <+: (f x).txout) :
    RecordsExtend s (s.mapInst k f) := by
  refine { RecordsExtend.refl s with txout := fun j => ?_ }
  rcases inst_mapInst_cases s k f j with h | ⟨-, h⟩
  · rw [h]
  · rw [h]
    exact hf _

theorem recordsExtend_regWrite (s : State) (r : Reg) (v : Word) : RecordsExtend s (s.regWrite r v) := by
  cases r with
  | spi k r => exact recordsExtend_mapInst s k (f := fun x => x.put s.cfg.pos r v) fun x => by rw [txout_put]
  | iser b | icer b | ipr q | exti e | exticr n | gpio p r => exact { RecordsExtend.refl s with }

theorem CommandEffect.recordsExtend {i : Instr} {s t : State} (h : CommandEffect i s t) : RecordsExtend s t := by
  induction h with
  | unchanged => exact .refl s
  | context u _ ih => exact { ih with }
  | store a f v _ ih => exact { ih with }
  | write v hr _ ih => exact ih.trans (recordsExtend_regWrite _ _ v)
  | device _ hf _ ih => exact ih.trans (recordsExtend_mapInst _ _ fun x => by rw [hf x])
  | event k ev _ ih => exact { ih with log := ih.log.trans (List.prefix_append _ _) }
  | result v _ ih => exact { ih with res := ih.res.trans (List.prefix_append _ _) }
  | fault r _ ih => exact { ih with faults := List.Subset.trans ih.faults (List.subset_insert _ _) }

/-- SPIDEV puts the frame it takes at the end of TXOUT (43_spi_engine.md R130). -/
theorem txout_prefix_react (p : FieldPos) (e : SpiEvent) (x : Spi) : x.txout <+: (x.react p e).txout := by
  cases e with
  | takeFrame =>
    simp only [Spi.react]
    split
    · exact List.prefix_append _ _
    · exact List.prefix_refl _
  | arrive v replace =>
    simp only [Spi.react]
    split <;> exact List.prefix_refl _
  | busy b | modeFault | crcError | opaqueBits v => exact List.prefix_refl _

theorem recordsExtend_spiEvent (s : State) (k : Nat) (e : SpiEvent) : RecordsExtend s (s.spiEvent k e) := by
  unfold State.spiEvent
  split
  · exact recordsExtend_mapInst s k (txout_prefix_react _ e)
  · exact .refl s

/-- A change that leaves the records and the instances as they are extends the records. -/
theorem recordsExtend_of_eq {s t : State} (hlog : t.log = s.log) (hres : t.res = s.res) (hfaults : t.faults = s.faults)
    (hrefused : t.refused = s.refused) (hspi : t.spi = s.spi) : RecordsExtend s t where
  log := by rw [hlog]
  res := by rw [hres]
  faults := by rw [hfaults]; exact List.Subset.refl _
  refused := by rw [hrefused]; exact id
  txout k := by rw [State.inst, State.inst, hspi]

theorem AgentEffect.recordsExtend {s t : State} (h : AgentEffect s t) : RecordsExtend s t := by
  cases h with
  | idle => exact .refl s
  | refuse => exact { RecordsExtend.refl s with refused := fun _ => rfl }
  | command _ ht => exact ht.recordsExtend
  | spi k e => exact recordsExtend_spiEvent s k e
  | pend i | enter | pin p n | request i level => apply recordsExtend_of_eq <;> simp

/-- Settles O12: a return keeps the records, and the effect of every agent extends them. -/
theorem recordsOnlyGrow : Obligations.RecordsOnlyGrow := by
  intro s t h
  have hst : RecordsExtend s t := by
    rcases step_effect h with rfl | ⟨sched, moves, order, ht⟩
    · apply recordsExtend_of_eq <;> simp
    · exact { ht.recordsExtend with }
  exact ⟨hst.log, hst.res, hst.faults, hst.refused, hst.txout⟩

end Sys2Proof.Machine
end

section
/-! SUPPORT. What a command leaves alone: the state of delivery, and the registers of every unit but its own
(10_state.md R15, R20, R39, R41). -/

namespace Sys2Proof.Machine

/-- Settles O14: what the statement names is part of the command frame. -/
theorem commandsLeaveDeliveryStateAlone : Obligations.CommandsLeaveDeliveryStateAlone := by
  intro i s t h
  obtain ⟨hcfg, -, hpend, hact, hext, hstack⟩ := commandFrame_eq_iff.mp (exec_keepsCommandFrame i s t h)
  obtain ⟨hsources, htail, hfg⟩ := Stack.suspended_eq hstack
  exact ⟨hpend, hact, hsources, hext, hcfg, htail, hfg⟩

/-! ## Ports -/

theorem port_setPort_of_ne (s : State) {p q : Nat} (x : Port) (h : p ≠ q) : (s.setPort p x).port q = s.port q := by
  simp only [State.port, State.setPort]
  grind

/-- A register write drives no pin (R32). -/
theorem pin_put (x : Port) (r : PortReg) (v : Word) : (x.put r v).pin = x.pin := by
  cases r <;> rfl

theorem pin_setPort_put (s : State) (p q : Nat) (r : PortReg) (v : Word) :
    ((s.setPort p ((s.port p).put r v)).port q).pin = (s.port q).pin := by
  by_cases hpq : p = q
  · subst hpq
    by_cases hp : p < 9
    · rw [port_setPort s p _ p hp, if_pos rfl, pin_put]
    · simp [State.port, State.setPort, Vector.getElem?_eq_none (Nat.le_of_not_lt hp)]
  · rw [port_setPort_of_ne s _ hpq]

/-! ## Each unit, against the commands of the others -/

section Units

variable {i : Instr} {s t : State}

theorem CommandEffect.inst_eq (h : CommandEffect i s t) {j : Nat} (hi : commandInstance i ≠ some j) :
    t.inst j = s.inst j := by
  have hother (u : State) (k : Nat) (f : Spi → Spi) (hk : commandInstance i = some k) :
      (u.mapInst k f).inst j = u.inst j :=
    (inst_mapInst_cases u k f j).resolve_right fun hj => hi (hj.1 ▸ hk)
  induction h with
  | unchanged => rfl
  | device hk hf _ ih => exact (hother _ _ _ hk).trans ih
  | @write t r v hr _ ih =>
    cases r with
    | spi k r => exact (hother t k _ hr).trans ih
    | iser b | icer b | ipr q | exti e | exticr n | gpio p r => exact ih
  | context _ _ ih | store _ _ _ _ ih | event _ _ _ ih | result _ _ ih | fault _ _ ih => exact ih

theorem CommandEffect.port_eq (h : CommandEffect i s t) {q : Nat} (hi : commandPort i ≠ some q) :
    t.port q = s.port q := by
  induction h with
  | unchanged => rfl
  | @write t r v hr _ ih =>
    cases r with
    | gpio p r => exact (port_setPort_of_ne t _ fun hpq => hi (Eq.trans hr (congrArg some hpq))).trans ih
    | iser b | icer b | ipr q | exti e | exticr n | spi k r => exact ih
  | context _ _ ih | device _ _ _ ih | store _ _ _ _ ih | event _ _ _ ih | result _ _ ih | fault _ _ ih => exact ih

theorem CommandEffect.pin_eq (h : CommandEffect i s t) (q : Nat) : (t.port q).pin = (s.port q).pin := by
  induction h with
  | unchanged => rfl
  | @write t r v hr _ ih =>
    cases r with
    | gpio p r => exact (pin_setPort_put t p q r v).trans ih
    | iser b | icer b | ipr q | exti e | exticr n | spi k r => exact ih
  | context _ _ ih | device _ _ _ ih | store _ _ _ _ ih | event _ _ _ ih | result _ _ ih | fault _ _ ih => exact ih

theorem CommandEffect.nvic_eq (h : CommandEffect i s t) (hi : setsController i = false) : t.nvic = s.nvic := by
  induction h with
  | unchanged => rfl
  | @write t r v hr _ ih =>
    cases r with
    | iser b | icer b | ipr q => obtain ⟨x, y, rfl⟩ := hr; cases hi
    | exti e | exticr n | gpio p r | spi k r => exact ih
  | context _ _ ih | device _ _ _ ih | store _ _ _ _ ih | event _ _ _ ih | result _ _ ih | fault _ _ ih => exact ih

theorem CommandEffect.lines_eq (h : CommandEffect i s t) (hi : routesLines i = false) :
    t.exticr = s.exticr ∧ t.exti = { s.exti with pr := t.exti.pr } := by
  induction h with
  | unchanged => exact ⟨rfl, rfl⟩
  | @write t r v hr _ ih =>
    cases r with
    | exti e =>
      cases e with
      | pr => exact ⟨ih.1, congrArg (fun x => x.put .pr v) ih.2⟩
      | imr | rtsr | ftsr => exact nomatch hi.symm.trans hr
    | exticr n => exact nomatch hi.symm.trans hr
    | iser b | icer b | ipr q | gpio p r | spi k r => exact ih
  | context _ _ ih | device _ _ _ ih | store _ _ _ _ ih | event _ _ _ ih | result _ _ ih | fault _ _ ih => exact ih

theorem CommandEffect.linePending_eq (h : CommandEffect i s t) (hi : ∀ n, i ≠ .extiHandle n) :
    t.exti.pr = s.exti.pr := by
  induction h with
  | unchanged => rfl
  | @write t r v hr _ ih =>
    cases r with
    | exti e =>
      cases e with
      | pr => obtain ⟨n, hn⟩ := hr; exact absurd hn (hi n)
      | imr | rtsr | ftsr => exact ih
    | iser b | icer b | ipr q | exticr n | gpio p r | spi k r => exact ih
  | context _ _ ih | device _ _ _ ih | store _ _ _ _ ih | event _ _ _ ih | result _ _ ih | fault _ _ ih => exact ih

end Units

/-- Settles O22: the effect of a command, unit by unit. -/
theorem commandsTouchOnlyTheirUnit : Obligations.CommandsTouchOnlyTheirUnit := by
  intro i s t h
  have ht : CommandEffect i s t := exec_effect i s t h
  exact ⟨fun _ => ht.inst_eq, fun _ => ht.port_eq, ht.pin_eq, ht.nvic_eq, ht.lines_eq, ht.linePending_eq⟩

end Sys2Proof.Machine
end

section
/-! SUPPORT. Request levels of the three kinds of source (10_state.md R21), and the environment's step that sets one. -/

namespace Sys2Proof.Machine

/-! ## Which source belongs to what (92_eei_decisions.md D44) -/

theorem extiSource_mem (c : Config) {l : Nat} (hl : l < 16) : extiSource c l ∈ c.extiIrq.toList := by
  simp [extiSource, hl]

theorem spiSource_mem {c : Config} {k : Nat} (hk : k < c.spiIrq.length) : spiSource c k ∈ c.spiIrq := by
  simp [spiSource, hk]

/-- Different SPI devices have different sources. -/
theorem spiSource_inj {c : Config} (hc : sourcesWf c = true) {j k : Nat} (hj : j < c.spiIrq.length)
    (hk : k < c.spiIrq.length) (h : spiSource c j = spiSource c k) : j = k := by
  simp only [sourcesWf, Bool.and_eq_true] at hc
  obtain ⟨⟨-, hdistinct⟩, -⟩ := hc
  refine (nodup_of_distinctNats hdistinct).getElem_inj_iff.mp (?_ : c.spiIrq[j] = c.spiIrq[k])
  simpa [spiSource, hj, hk] using h

/-- No line shares a source with an SPI device. -/
theorem extiSource_ne_spiSource {c : Config} (hc : sourcesWf c = true) {l k : Nat} (hl : l < 16)
    (hk : k < c.spiIrq.length) : extiSource c l ≠ spiSource c k := by
  simp only [sourcesWf, Bool.and_eq_true, List.all_eq_true, Bool.not_eq_true', List.contains_eq_mem,
    decide_eq_false_iff_not] at hc
  obtain ⟨-, hapart⟩ := hc
  exact fun h => hapart _ (spiSource_mem hk) (h ▸ extiSource_mem c hl)

/-! ## The parts of a request -/

theorem extiRequest_iff (s : State) (i : Nat) :
    s.extiRequest i = true ↔ ∃ l < 16, extiSource s.cfg l = i ∧ s.exti.pr.getLsbD l = true
      ∧ s.exti.imr.getLsbD l = true := by
  simp [State.extiRequest, State.lineRequests]

theorem spiRequest_iff (s : State) (i : Nat) :
    s.spiRequest i = true ↔ ∃ k < s.nSpi, spiSource s.cfg k = i ∧ (s.inst k).request s.cfg.pos = true := by
  simp [State.spiRequest]

theorem otherSource_iff (s : State) (i : Nat) :
    s.otherSource i = true ↔ (∀ l < 16, extiSource s.cfg l ≠ i) ∧ ∀ k < s.nSpi, spiSource s.cfg k ≠ i := by
  simp [State.otherSource]

theorem request_iff (s : State) (i : Nat) :
    s.request i = true ↔ s.extiRequest i = true ∨ s.spiRequest i = true
      ∨ (s.otherSource i = true ∧ s.extReq.getLsbD i = true) := by
  simp [State.request, or_assoc]

theorem Spi.request_iff (p : FieldPos) (x : Spi) :
    x.request p = true ↔
      (x.sr.getLsbD p.txe = true ∧ x.cr2.getLsbD p.txeie = true)
        ∨ (x.sr.getLsbD p.rxne = true ∧ x.cr2.getLsbD p.rxneie = true)
        ∨ ((x.sr.getLsbD p.ovr = true ∨ x.sr.getLsbD p.crcerr = true ∨ x.sr.getLsbD p.modf = true)
          ∧ x.cr2.getLsbD p.errie = true) := by
  simp [Spi.request, or_assoc]

/-! ## The request of each kind of source -/

/-- The request of an SPI source is its device's line (R134). -/
theorem request_spiSource {s : State} (hc : sourcesWf s.cfg = true) (hn : s.cfg.spiIrq.length = s.nSpi) {k : Nat}
    (hk : k < s.nSpi) : s.request (spiSource s.cfg k) = true ↔ (s.inst k).request s.cfg.pos = true := by
  have hspi : s.spiRequest (spiSource s.cfg k) = true ↔ (s.inst k).request s.cfg.pos = true := by
    rw [spiRequest_iff]
    constructor
    · rintro ⟨j, hj, hjk, hreq⟩
      obtain rfl := spiSource_inj hc (hn ▸ hj) (hn ▸ hk) hjk
      exact hreq
    · exact fun hreq => ⟨k, hk, rfl, hreq⟩
  have hexti : ¬ s.extiRequest (spiSource s.cfg k) = true := by
    rw [extiRequest_iff]
    rintro ⟨l, hl, hlk, -⟩
    exact extiSource_ne_spiSource hc hl (hn ▸ hk) hlk
  have hother : ¬ s.otherSource (spiSource s.cfg k) = true := by
    rw [otherSource_iff]
    exact fun h => h.2 k hk rfl
  simp [request_iff, hspi, hexti, hother]

/-- The request of an EXTI source is that of its lines (R100). -/
theorem request_extiSource {s : State} (hc : sourcesWf s.cfg = true) (hn : s.cfg.spiIrq.length = s.nSpi) {l : Nat}
    (hl : l < 16) : s.request (extiSource s.cfg l) = true ↔ s.extiRequest (extiSource s.cfg l) = true := by
  have hspi : ¬ s.spiRequest (extiSource s.cfg l) = true := by
    rw [spiRequest_iff]
    rintro ⟨k, hk, hkl, -⟩
    exact extiSource_ne_spiSource hc hl (hn ▸ hk) hkl.symm
  have hother : ¬ s.otherSource (extiSource s.cfg l) = true := by
    rw [otherSource_iff]
    exact fun h => h.1 l hl rfl
  simp [request_iff, hspi, hother]

/-- The request of any other source is its free input (R21). -/
theorem request_otherSource {s : State} {i : Nat} (hi : s.otherSource i = true) :
    s.request i = s.extReq.getLsbD i := by
  have ⟨hlines, hinsts⟩ := (otherSource_iff s i).mp hi
  have hexti : ¬ s.extiRequest i = true := by
    rw [extiRequest_iff]
    exact fun ⟨l, hl, hli, _⟩ => hlines l hl hli
  have hspi : ¬ s.spiRequest i = true := by
    rw [spiRequest_iff]
    exact fun ⟨k, hk, hki, _⟩ => hinsts k hk hki
  simp [State.request, hexti, hspi, hi]

/-! ## The environment's step -/

/-- The environment sets the input of one source and nothing else (log 19). -/
theorem getLsbD_setRequest {s : State} {i : Nat} (hi : s.otherSource i = true) (h240 : i < 240) (level : Bool)
    (j : Nat) : (s.setRequest i level).extReq.getLsbD j = if j = i then level else s.extReq.getLsbD j := by
  have hout : 240 ≤ j → s.extReq.getLsbD j = false := BitVec.getLsbD_of_ge _ j
  rw [State.setRequest, if_pos hi]
  cases level
  · simp only [Bool.false_eq_true, if_false, BitVec.getLsbD_and, BitVec.getLsbD_not, getLsbD_sourceBit]
    grind
  · simp only [if_true, BitVec.getLsbD_or, getLsbD_sourceBit]
    grind

theorem setRequest_eq (s : State) (i : Nat) (level : Bool) :
    s.setRequest i level = { s with extReq := (s.setRequest i level).extReq } := by
  unfold State.setRequest
  split <;> rfl

/-- Settles O55: the three kinds of source exclude each other, so one part of a request is left for each. -/
theorem requestLevels : Obligations.RequestLevels := by
  intro s
  refine ⟨fun hc hn => ⟨fun k hk => ?_, ?_⟩, fun i hi hlines hinsts => ?_⟩
  · exact (request_spiSource hc hn hk).trans (Spi.request_iff _ _)
  · rintro i ⟨l, hl, rfl⟩
    exact (request_extiSource hc hn hl).trans (extiRequest_iff s _)
  · have hother : s.otherSource i = true := (otherSource_iff s i).mpr ⟨hlines, hinsts⟩
    have h240 : i < 240 := Nat.lt_of_lt_of_le hi (Nat.le_of_lt_succ s.cfg.nIrq.isLt)
    refine ⟨request_otherSource hother, fun level rest hret hsched => ?_⟩
    have hstep : step s = .next (({ s with sched := rest } : State).setRequest i level) := by
      rw [step_eq, hret, hsched]
      rfl
    exact ⟨_, hstep, setRequest_eq _ i level, getLsbD_setRequest (s := { s with sched := rest }) hother h240 level⟩

end Sys2Proof.Machine
end

section
/-! SUPPORT. A scheduled step of the running context, and where completing its command leads (10_state.md R41;
43_spi_engine.md R121). -/

namespace Sys2Proof.Machine

/-! ## Where a completed command leads -/

theorem resume_of_not_ended {f : Frame} (hf : f.ended = false) (l : List Frame) : resume f l = (f, l) := by
  cases l <;> simp [resume, hf]

/-- A list that has run out hands back to a dispatch with sub-handlers left. -/
theorem resume_dispatch_cons {cur f : Frame} {fs : List Frame} {h : Handler} {l : List Handler}
    (hcur : cur.ended = true) (hf : f.mst = .dispatch (h :: l)) : resume cur (f :: fs) = (f, fs) := by
  simp [resume, hcur, hf]

/-- A list that has run out completes the command of a dispatch with none left. -/
theorem resume_dispatch_nil {cur f : Frame} {fs : List Frame} (hcur : cur.ended = true) (hf : f.mst = .dispatch []) :
    resume cur (f :: fs) = resume f.advance fs := by
  simp [resume, hcur, hf]

theorem ended_advance_iff (f : Frame) : f.advance.ended = true ↔ skipCommands (f.pc + 1) f.prog = [] := by
  simp [Frame.ended, Frame.rest, Frame.advance]

/-- Inside the outermost list, or before a list's end, the context goes on with its next command. -/
theorem complete_eq_advance {s : State}
    (h : s.top.outer = [] ∨ skipCommands (s.top.cur.pc + 1) s.top.cur.prog ≠ []) :
    s.complete = s.setTop { s.top with cur := s.top.cur.advance } := by
  have hresume : resume s.top.cur.advance s.top.outer = (s.top.cur.advance, s.top.outer) := by
    rcases h with h | h
    · rw [h, resume]
    · exact resume_of_not_ended (Bool.eq_false_iff.mpr fun he => h ((ended_advance_iff _).mp he)) _
  rw [State.complete, Thread.complete, hresume]

/-- At the end of a spliced list, the context goes back to a dispatch with sub-handlers left (log 10). -/
theorem complete_eq_back {s : State} {f : Frame} {fs : List Frame} {h : Handler} {l : List Handler}
    (houter : s.top.outer = f :: fs) (hend : skipCommands (s.top.cur.pc + 1) s.top.cur.prog = [])
    (hf : f.mst = .dispatch (h :: l)) : s.complete = s.setTop { s.top with cur := f, outer := fs } := by
  rw [State.complete, Thread.complete, houter, resume_dispatch_cons ((ended_advance_iff _).mpr hend) hf]

/-- At the end of a spliced list whose dispatch has nothing left, the dispatch's own command completes (log 10). -/
theorem complete_eq_complete_back {s : State} {f : Frame} {fs : List Frame} (houter : s.top.outer = f :: fs)
    (hend : skipCommands (s.top.cur.pc + 1) s.top.cur.prog = []) (hf : f.mst = .dispatch []) :
    s.complete = (s.setTop { s.top with cur := f, outer := fs }).complete := by
  rw [State.complete, Thread.complete, houter, resume_dispatch_nil ((ended_advance_iff _).mpr hend) hf, State.complete,
    top_setTop, setTop_setTop, Thread.complete]

/-! ## The step that runs it -/

/-- A context with a command left has not completed. -/
theorem completed_eq_false_of_decode {s : State} {i : Instr} {ws : List Word}
    (hd : decode s.fetchWords = .ok (i, ws)) : s.top.completed = false := by
  refine Bool.eq_false_iff.mpr fun hc => ?_
  simp only [Thread.completed, Bool.and_eq_true, Frame.ended, List.isEmpty_iff] at hc
  rw [State.fetchWords, hc.2] at hd
  cases hd

theorem runTop_of_decode {s : State} {i : Instr} {ws : List Word} (hstuck : s.top.stuck = none)
    (hd : decode s.fetchWords = .ok (i, ws)) : runTop s = exec i s := by
  simp [runTop, hstuck, completed_eq_false_of_decode hd, hd]

/-- Settles O4: the step runs the decoded command, and completing it is by where its list ends. -/
theorem stepRunsDecodedCommand : Obligations.StepRunsDecodedCommand := by
  refine ⟨fun s o rest i ws hret hsched hstuck hd => ?_, fun s => ⟨complete_eq_advance, ?_⟩⟩
  · rw [step_eq, hret, hsched]
    exact runTop_of_decode (s := { s with sched := rest, order := o }) hstuck hd
  · intro f fs houter hend
    exact ⟨fun _ _ hf => complete_eq_back houter hend hf, fun hf => complete_eq_complete_back houter hend hf⟩

end Sys2Proof.Machine
end

section
/-! SUPPORT. Frames in buffer memory: a frame reads back as its own bits, and every step keeps the canonical form
(20_memory.md R53 to R55). -/

namespace Sys2Proof.Machine

/-! ## The bits of a frame (R54, R55) -/

/-- A frame's bits are the low ones, as many as its bytes hold. -/
theorem FrameSize.low_eq_setWidth (f : FrameSize) (v : Word) :
    f.low v = (v.setWidth (8 * f.bytes)).setWidth 32 := by
  refine BitVec.eq_of_toNat_eq ?_
  have hmask := Nat.and_two_pow_sub_one_eq_mod v.toNat (8 * f.bytes)
  cases f <;> simp [FrameSize.low, FrameSize.bytes] at hmask ⊢ <;> omega

@[simp] theorem FrameSize.low_low (f : FrameSize) (v : Word) : f.low (f.low v) = f.low v := by
  cases f <;> simp [FrameSize.low, BitVec.and_assoc]

/-- A 16-bit frame is its two bytes put together, the low one first. -/
theorem FrameSize.low_two_eq_bytes (v : Word) :
    FrameSize.two.low v = (v.setWidth 8).setWidth 32 ||| (((v >>> 8).setWidth 8).setWidth 32 <<< 8) := by
  rw [FrameSize.low_eq_setWidth]
  refine BitVec.eq_of_getLsbD_eq fun i hi => ?_
  simp only [FrameSize.bytes, BitVec.getLsbD_setWidth, BitVec.getLsbD_or, BitVec.getLsbD_shiftLeft,
    BitVec.getLsbD_ushiftRight]
  grind

/-! ## Reading a frame back -/

/-- The second address of a frame is never its first, even where it wraps (R10). -/
theorem toNat_add_one_ne (a : Word) : (a + 1).toNat ≠ a.toNat := by
  bv_omega

/-- The low byte of a frame written stands at its address. -/
theorem Memory.byte_writeFrame_low {m : Memory} (h : m.wf) (a : Word) (f : FrameSize) (v : Word) :
    (m.writeFrame a f v).byte a.toNat = v.setWidth 8 := by
  rw [Memory.byte_writeFrame h]
  cases f with
  | one => exact if_pos rfl
  | two => exact (if_neg (toNat_add_one_ne a)).trans (if_pos rfl)

/-- The high byte of a 16-bit frame written stands at the next address. -/
theorem Memory.byte_writeFrame_high {m : Memory} (h : m.wf) (a : Word) (v : Word) :
    (m.writeFrame a .two v).byte (a + 1).toNat = (v >>> 8).setWidth 8 := by
  rw [Memory.byte_writeFrame h]
  exact if_pos rfl

theorem Memory.readFrame_writeFrame {m : Memory} (h : m.wf) (a : Word) (f : FrameSize) (v : Word) :
    (m.writeFrame a f v).readFrame a f = f.low v := by
  cases f with
  | one => rw [Memory.readFrame, Memory.byte_writeFrame_low h, FrameSize.low_eq_setWidth, FrameSize.bytes]
  | two =>
    rw [Memory.readFrame, Memory.byte_writeFrame_low h, Memory.byte_writeFrame_high h, FrameSize.low_two_eq_bytes]

/-- Settles O19: the bytes of the frame stand at its own two addresses, and put together they are its bits. -/
theorem frameReadsBack : Obligations.FrameReadsBack := by
  intro m a f v hm
  refine ⟨Memory.readFrame_writeFrame hm a f v, ?_, ?_⟩
  · rw [Memory.byte_writeFrame_low hm]
    exact BitVec.setWidth_eq_extractLsb' (by decide)
  · rintro rfl
    exact Memory.byte_writeFrame_high hm a v

/-! ## The canonical form -/

/-- The operations a command is made of write memory by frames alone, and a frame write keeps the canonical form. -/
theorem CommandEffect.memoryWf {i : Instr} {s t : State} (h : CommandEffect i s t) (hs : s.mem.wf) : t.mem.wf := by
  induction h with
  | unchanged => exact hs
  | store a f v _ ih => exact Memory.wf_writeFrame ih a f v
  | write v _ _ ih => simpa using ih
  | context _ _ ih | device _ _ _ ih | event _ _ _ ih | result _ _ ih | fault _ _ ih => exact ih

theorem AgentEffect.memoryWf {s t : State} (h : AgentEffect s t) (hs : s.mem.wf) : t.mem.wf := by
  cases h with
  | command _ ht => exact ht.memoryWf hs
  | idle | refuse => exact hs
  | pend i | enter | pin p n | request i level | spi k e => simpa using hs

/-- Settles O8: a return keeps memory as it is, and the effect of every agent keeps the canonical form. -/
theorem memoryStaysCanonical : Obligations.MemoryStaysCanonical := by
  intro s t hs h
  rcases step_effect h with rfl | ⟨sched, moves, order, ht⟩
  · simpa using hs
  · exact ht.memoryWf hs

end Sys2Proof.Machine
end

section
/-! SUPPORT. Register addresses under well-formed parameters (20_memory.md R47, R48, R56, R57). -/

namespace Sys2Proof.Machine

/-! ## What `addrWf` checks, register by register -/

section Addresses

variable {c : Config} {r : Reg}

theorem addrWf_iff : addrWf c = true ↔
    c.addr.spi.length = c.spiIrq.length ∧ (∀ b ∈ addrBases c.addr, wordAligned b = true)
      ∧ (∀ q ∈ allRegs c.nIrq c.spiIrq.length, wordAligned (regAddr c.addr q) = true
          ∧ ∀ b ∈ [regAddr c.addr q, regAddr c.addr q + 1, regAddr c.addr q + 2, regAddr c.addr q + 3],
              inRam c.ram b = false)
      ∧ distinctNats (((allRegs c.nIrq c.spiIrq.length).map (regAddr c.addr)).map BitVec.toNat) = true := by
  simp [addrWf, and_assoc]

/-- Registers have addresses of their own (R57). -/
theorem eq_of_regAddr_eq (h : addrWf c = true) (hr : r ∈ allRegs c.nIrq c.spiIrq.length) {q : Reg}
    (hq : q ∈ allRegs c.nIrq c.spiIrq.length) (haddr : regAddr c.addr q = regAddr c.addr r) : q = r := by
  obtain ⟨-, -, -, hdistinct⟩ := addrWf_iff.mp h
  rw [List.map_map] at hdistinct
  exact List.inj_on_of_nodup_map (nodup_of_distinctNats hdistinct) hq hr (congrArg BitVec.toNat haddr)

/-- The address of a register leads back to it (R48). -/
theorem regAt_regAddr (h : addrWf c = true) (hr : r ∈ allRegs c.nIrq c.spiIrq.length) :
    regAt c (regAddr c.addr r) = some r := by
  have hsome : (regAt c (regAddr c.addr r)).isSome = true :=
    List.find?_isSome.mpr ⟨r, hr, by simp⟩
  obtain ⟨q, hq⟩ := Option.isSome_iff_exists.mp hsome
  rw [hq, eq_of_regAddr_eq h hr (List.mem_of_find?_eq_some hq) (by simpa using List.find?_some hq)]

end Addresses

/-- A launch with a base that is not word-aligned is refused, whatever its register addresses are (R56). -/
theorem launch_of_unaligned_base {l : Launch} {b : Word} (hb : b ∈ addrBases l.cfg.addr) (hne : b.toNat % 4 ≠ 0) :
    launch l = .refused .illFormedLaunch := by
  have haddr : addrWf l.cfg = false := by
    refine Bool.eq_false_iff.mpr fun h => hne ?_
    obtain ⟨-, hbases, -⟩ := addrWf_iff.mp h
    exact beq_iff_eq.mp (hbases b hb)
  simp [launch, configWf, haddr]

/-- Settles O20: by what `addrWf` checks of every register and of every base. -/
theorem addressesNameTheirRegisters : Obligations.AddressesNameTheirRegisters := by
  refine ⟨fun c r hwf hr => ?_, fun l b hb hne => launch_of_unaligned_base hb hne⟩
  obtain ⟨-, -, hregs, -⟩ := addrWf_iff.mp hwf
  obtain ⟨haligned, hram⟩ := hregs r hr
  exact ⟨regAt_regAddr hwf hr, hram _ List.mem_cons_self, beq_iff_eq.mp haligned⟩

end Sys2Proof.Machine
end

section
/-! SUPPORT. Which micro-steps write buffer memory: those that store a received frame, and no others (20_memory.md R53;
43_spi_engine.md R110, R116). -/

namespace Sys2Proof.Machine

open Host (Outcome)

/-! ## Memory after a micro-step -/

/-- Memory after a micro-step from `s` that stores a frame, or none: a frame outside RAM is not stored (R53, log 11). -/
def State.memAfter (s : State) : Option (Word × FrameSize × Word) → Memory
  | none => s.mem
  | some (b, f, v) => if s.ramOk b f then s.mem.writeFrame b f v else s.mem

@[simp] theorem memAfter_none (s : State) : s.memAfter none = s.mem := rfl

/-- An outcome that, when it is a next state, has stored the frame into the memory of `s`, and nothing else. -/
def Stores (s : State) (w : Option (Word × FrameSize × Word)) (o : Outcome State Fault Refusal) : Prop :=
  ∀ t, o = .next t → t.mem = s.memAfter w

@[simp] theorem stores_next (s t : State) (w : Option (Word × FrameSize × Word)) :
    Stores s w (.next t) ↔ t.mem = s.memAfter w := by
  simp [Stores]

@[simp] theorem stores_fault (s : State) (w : Option (Word × FrameSize × Word)) (r : Fault) :
    Stores s w (.fault r) := by
  simp [Stores]

/-! ## The frame stored at a position -/

@[simp] theorem storedFrame_fresh (i : Instr) : storedFrame i .fresh = none := by
  cases i <;> rfl

/-- A frame stored is no more than its own bits. -/
theorem low_of_storedFrame {i : Instr} {m : MState} {b v : Word} {f : FrameSize}
    (h : storedFrame i m = some (b, f, v)) : f.low v = v := by
  unfold storedFrame at h
  split at h <;> cases h
  · exact FrameSize.low_low _ _
  · exact FrameSize.low_low _ _

/-! ## The micro-steps that commands share -/

@[simp] theorem mem_storeFrame (s : State) (a : Word) (f : FrameSize) (v : Word) :
    (s.storeFrame a f v).mem = s.mem.writeFrame a f v := rfl

@[simp] theorem mem_readPort (p : Nat) (r : PortReg) (m : Word → MState) (s : State) :
    (readPort p r m s).mem = s.mem := by
  simp [readPort]

@[simp] theorem mem_readSpi (k : Nat) (r : SpiReg) (m : Word → MState) (s : State) : (readSpi k r m s).mem = s.mem := by
  simp [readSpi]

@[simp] theorem mem_routerStep (n p : Nat) (c : Trigger) (pos : RouterPos) (s : State) :
    (routerStep n p c pos s).2.mem = s.mem := by
  cases pos with
  | select => cases hm : s.cfg.exticrMode <;> simp [routerStep, hm]
  | setRead | setWrite _ | otherRead | otherWrite _ | selectWrite _ | maskRead | maskWrite _ => simp [routerStep]

theorem mem_afterRouter {after : State → State} (hafter : ∀ u, (after u).mem = u.mem)
    (r : Option RouterPos × State) : (afterRouter after r).mem = r.2.mem := by
  unfold afterRouter
  split
  · simp
  · exact hafter _

@[simp] theorem mem_gpioStep (n p : Nat) (m : PinMode) (cfg : Word) (pos : GpioPos) (s : State) :
    (gpioStep n p m cfg pos s).mem = s.mem := by
  cases pos with
  | typeWrite v =>
    simp only [gpioStep]
    split <;> simp
  | moderWrite _ | speedRead | speedWrite _ | pullRead | pullWrite _ | typeRead | afRead | afWrite _ => simp [gpioStep]

@[simp] theorem mem_gpioFirst (n p : Nat) (m : PinMode) (s : State) : (gpioFirst n p m s).mem = s.mem := by
  cases m with
  | interrupt c => simp [gpioFirst, mem_afterRouter]
  | input | output | alternate | analog => exact mem_readPort _ _ _ s

@[simp] theorem mem_startStep (k : Nat) (d : Direction) (buf len : Word) (pos : StartPos) (s : State) :
    (startStep k d buf len pos s).mem = s.mem := by
  cases pos <;> simp [startStep]

@[simp] theorem mem_closeStep (k : Nat) (d : Direction) (pos : ClosePos) (s : State) :
    (closeStep k d pos s).2.mem = s.mem := by
  cases pos <;> simp [closeStep]

/-- A blocking transfer writes memory where SPI_RECEIVE stores a frame (R110 `<m>`). -/
theorem mem_blockStep (k : BitVec 8) (buf len : Word) (d : Direction) (pos : BlockPos) (s : State) :
    (blockStep k.toNat d pos s).mem = s.memAfter (storedFrame (blockingCommand d k buf len) (.blocking pos)) := by
  cases pos with
  | poll b n | frame b n | idle =>
    simp only [blockStep]
    cases d <;> split <;> simp [blockingCommand, storedFrame]
  | first b n f =>
    cases d with
    | tx => simp only [blockStep]; split <;> simp [blockingCommand, storedFrame]
    | rx => simp [blockStep, blockingCommand, storedFrame]
  | second b n f x =>
    cases d with
    | tx => simp [blockStep, blockingCommand, storedFrame]
    | rx => cases hok : s.ramOk b f <;> simp [blockStep, hok, blockingCommand, storedFrame, State.memAfter]

/-- A tick writes memory where RX_TICK stores a frame (R116 `<y5>`). -/
theorem mem_tickStep (k : BitVec 8) (d : Direction) (rest : List Handler) (pos : TickPos) (s : State) :
    (tickStep k.toNat d rest pos s).mem = s.memAfter (storedFrame (.spiIrqHandle k) (.tick d rest pos)) := by
  cases pos with
  | stRead | lenRead f | bufWrite f len b =>
    simp only [tickStep]
    split <;> simp [storedFrame]
  | cr1Read | bufRead f len | lenWrite f len b => simp [tickStep, storedFrame]
  | first f len b =>
    cases d with
    | tx => simp only [tickStep]; split <;> simp [storedFrame]
    | rx => simp [tickStep, storedFrame]
  | second f len b x =>
    cases d with
    | tx => simp [tickStep, storedFrame]
    | rx => cases hok : s.ramOk b f <;> simp [tickStep, hok, storedFrame, State.memAfter]
  | closing p =>
    have hclose := mem_closeStep k.toNat d p s
    rcases hc : closeStep k.toNat d p s with ⟨_ | q, t⟩ <;> rw [hc] at hclose <;>
      simpa [tickStep, hc, storedFrame] using hclose

@[simp] theorem mem_drainStep (k : Nat) (rest : List Handler) (pos : OvrPos) (s : State) :
    (drainStep k rest pos s).mem = s.mem := by
  cases pos with
  | stRead =>
    simp only [drainStep]
    split <;> simp
  | drRead | srRead => simp [drainStep]

@[simp] theorem mem_beginHandler (k : Nat) (h : Handler) (rest : List Handler) (s : State) :
    (beginHandler k h rest s).mem = s.mem := by
  cases h with
  | crc => simp only [beginHandler, crcBegin]; split <;> simp
  | tick d | ovr => simp [beginHandler]

@[simp] theorem mem_dispatchStep (k : Nat) (rest : List Handler) (s : State) :
    (dispatchStep k rest s).mem = s.mem := by
  cases rest <;> simp [dispatchStep]

/-! ## The commands -/

theorem execIrqSetEnabled_stores (x : BitVec 8) (e : Bool) (s : State) : Stores s none (execIrqSetEnabled x e s) := by
  unfold execIrqSetEnabled
  split
  · split <;> simp
  · simp

theorem execIrqSetPriority_stores (x p : BitVec 8) (s : State) : Stores s none (execIrqSetPriority x p s) := by
  simp only [execIrqSetPriority]
  split
  · repeat' split
    all_goals simp
  · simp
  · simp

theorem execExtiConfigure_stores (n p c : BitVec 8) (s : State) : Stores s none (execExtiConfigure n p c s) := by
  unfold execExtiConfigure
  split
  · repeat' split
    all_goals simp [mem_afterRouter]
  · split <;> simp [mem_afterRouter]
  · simp

theorem execExtiHandle_stores (n : BitVec 8) (s : State) : Stores s none (execExtiHandle n s) := by
  unfold execExtiHandle
  split
  · repeat' split
    all_goals simp
  · simp
  · simp

theorem execGpioConfigure_stores (n p c : BitVec 8) (cfg : Word) (s : State) :
    Stores s none (execGpioConfigure n p c cfg s) := by
  unfold execGpioConfigure
  split
  · repeat' split
    all_goals simp
  · split <;> simp [mem_afterRouter]
  · split <;> simp
  · simp

theorem execGpioReadPin_stores (n p : BitVec 8) (s : State) : Stores s none (execGpioReadPin n p s) := by
  simp only [execGpioReadPin]
  split
  · repeat' split
    all_goals simp
  · simp

/-- GPIO_WRITE_PIN and GPIO_TOGGLE_PIN. -/
theorem odrUpdate_stores (n p : BitVec 8) (g : Word → Word) (s : State) : Stores s none (odrUpdate n p g s) := by
  unfold odrUpdate
  split
  · repeat' split
    all_goals simp
  · simp
  · simp

theorem execSpiInit_stores (k : BitVec 8) (dff errie : Bool) (cr1 : Word) (s : State) :
    Stores s none (execSpiInit k dff errie cr1 s) := by
  simp only [execSpiInit]
  split
  · repeat' split
    all_goals simp
  · simp
  · simp
  · simp

/-- SPI_START_TX and SPI_START_RX. -/
theorem startTransfer_stores (d : Direction) (k : BitVec 8) (buf len : Word) (s : State) :
    Stores s none (startTransfer d k buf len s) := by
  simp only [startTransfer]
  split
  · repeat' split
    all_goals simp
  · simp
  · simp

/-- SPI_CLOSE_TX and SPI_CLOSE_RX. -/
theorem closeTransfer_stores (d : Direction) (k : BitVec 8) (s : State) : Stores s none (closeTransfer d k s) := by
  simp only [closeTransfer]
  split
  · repeat' split
    all_goals simp
  · rename_i p _
    have hclose := mem_closeStep k.toNat d p s
    rcases hc : closeStep k.toNat d p s with ⟨_ | q, t⟩ <;> rw [hc] at hclose <;> simpa using hclose
  · simp

/-- SPI_TRANSMIT and SPI_RECEIVE. -/
theorem blockingTransfer_stores (d : Direction) (k : BitVec 8) (buf len : Word) (s : State) :
    Stores s (storedFrame (blockingCommand d k buf len) s.mstate) (blockingTransfer d k buf len s) := by
  simp only [blockingTransfer]
  split
  · rename_i hm
    rw [hm, storedFrame_fresh]
    repeat' split
    all_goals simp
  · rename_i pos hm
    rw [hm, stores_next]
    exact mem_blockStep k buf len d pos s
  · simp

theorem execSpiIrqHandle_stores (k : BitVec 8) (s : State) :
    Stores s (storedFrame (.spiIrqHandle k) s.mstate) (execSpiIrqHandle k s) := by
  simp only [execSpiIrqHandle]
  split <;> rename_i hm
  · rw [hm, storedFrame_fresh]
    split <;> simp
  · rw [hm]
    simp [storedFrame]
  · rw [hm]
    split <;> simp [storedFrame]
  · rw [hm, stores_next]
    exact mem_tickStep k _ _ _ s
  · rw [hm]
    simp [storedFrame]
  · rw [hm]
    simp [storedFrame]
  · simp

/-- Every micro-step stores the frame of its position, and writes memory nowhere else. -/
theorem exec_stores (i : Instr) (s : State) : Stores s (storedFrame i s.mstate) (exec i s) := by
  cases i with
  | irqSetEnabled x e => exact execIrqSetEnabled_stores x e s
  | irqSetPriority x p => exact execIrqSetPriority_stores x p s
  | extiConfigure n p c => exact execExtiConfigure_stores n p c s
  | extiHandle n => exact execExtiHandle_stores n s
  | gpioConfigure n p c cfg => exact execGpioConfigure_stores n p c cfg s
  | gpioReadPin n p => exact execGpioReadPin_stores n p s
  | gpioWritePin n p v => exact odrUpdate_stores n p _ s
  | gpioTogglePin n p => exact odrUpdate_stores n p _ s
  | spiInit k dff errie cr1 => exact execSpiInit_stores k dff errie cr1 s
  | spiTransmit k buf len => exact blockingTransfer_stores .tx k buf len s
  | spiReceive k buf len => exact blockingTransfer_stores .rx k buf len s
  | spiStartTx k buf len => exact startTransfer_stores .tx k buf len s
  | spiStartRx k buf len => exact startTransfer_stores .rx k buf len s
  | spiIrqHandle k => exact execSpiIrqHandle_stores k s
  | spiCloseTx k => exact closeTransfer_stores .tx k s
  | spiCloseRx k => exact closeTransfer_stores .rx k s

/-- Settles O21: a frame stored changes its own bytes and reads back, and a position without one leaves memory alone. -/
theorem commandsStoreOnlyReceivedFrames : Obligations.CommandsStoreOnlyReceivedFrames := by
  intro i s t hs h
  have hmem : t.mem = s.memAfter (storedFrame i s.mstate) := exec_stores i s t h
  rcases hw : storedFrame i s.mstate with _ | ⟨b, f, v⟩ <;> rw [hw] at hmem
  · exact hmem
  · have hstored (hok : s.ramOk b f = true) : t.mem = s.mem.writeFrame b f v := hmem.trans (if_pos hok)
    have hkept (hok : s.ramOk b f = false) : t.mem = s.mem := hmem.trans (if_neg (by simp [hok]))
    refine ⟨fun a ha => ?_, fun hok => ?_, hkept⟩
    · cases hok : s.ramOk b f with
      | false => rw [hkept hok]
      | true => rw [hstored hok, Memory.byte_writeFrame_ne hs ha]
    · rw [hstored hok, Memory.readFrame_writeFrame hs, low_of_storedFrame hw]

end Sys2Proof.Machine
end

section
/-! SUPPORT. The words of a command (30_encoding.md R72 to R78): a command word is its four byte fields, its row is fixed
by its opcode, and what is left to check of it is the reserved bits of the fields `B` and `C`. -/

namespace Sys2Proof

open Sys2Proof.Laws (commandWord_low)

/-! ## Byte fields (R72) -/

/-- A word is its four byte fields. -/
theorem eq_of_fields {x y : Word} (hop : x &&& 0xFF = y &&& 0xFF) (ha : fieldA x = fieldA y)
    (hb : fieldB x = fieldB y) (hc : fieldC x = fieldC y) : x = y := by
  refine BitVec.eq_of_getLsbD_eq fun i hi => ?_
  have hfield {n : Nat} (h : x.extractLsb' n 8 = y.extractLsb' n 8) (hl : n ≤ i) (hu : i < n + 8) :
      x.getLsbD i = y.getLsbD i := by
    have := congrArg (BitVec.getLsbD · (i - n)) h
    simpa [BitVec.getLsbD_extractLsb', hl, show i - n < 8 by omega] using this
  rcases (by omega : i < 8 ∨ (8 ≤ i ∧ i < 16) ∨ (16 ≤ i ∧ i < 24) ∨ 24 ≤ i) with h | ⟨h, h'⟩ | ⟨h, h'⟩ | h
  · have hlow := congrArg (BitVec.getLsbD · i) hop
    simpa only [BitVec.getLsbD_and, Laws.getLsbD_ff, h, decide_true, Bool.and_true] using hlow
  · exact hfield ha h h'
  · exact hfield hb h h'
  · exact hfield hc h (by omega)

@[simp] theorem fieldA_or (x y : Word) : fieldA (x ||| y) = fieldA x ||| fieldA y := BitVec.extractLsb'_or
@[simp] theorem fieldB_or (x y : Word) : fieldB (x ||| y) = fieldB x ||| fieldB y := BitVec.extractLsb'_or
@[simp] theorem fieldC_or (x y : Word) : fieldC (x ||| y) = fieldC x ||| fieldC y := BitVec.extractLsb'_or
@[simp] theorem fieldA_and (x y : Word) : fieldA (x &&& y) = fieldA x &&& fieldA y := BitVec.extractLsb'_and
@[simp] theorem fieldB_and (x y : Word) : fieldB (x &&& y) = fieldB x &&& fieldB y := BitVec.extractLsb'_and
@[simp] theorem fieldC_and (x y : Word) : fieldC (x &&& y) = fieldC x &&& fieldC y := BitVec.extractLsb'_and

/-- A byte shifted to a field's place is read there. -/
theorem extract_shifted_same (x : BitVec 8) {n : Nat} (hn : n ≤ 24) :
    (x.setWidth 32 <<< n).extractLsb' n 8 = x := by
  refine BitVec.eq_of_getLsbD_eq fun i hi => ?_
  simp [hi, show n + i < 32 by omega]

/-- A byte shifted to another field's place is not read. -/
theorem extract_shifted_other (x : BitVec 8) {m n : Nat} (h : m + 8 ≤ n ∨ n + 8 ≤ m) :
    (x.setWidth 32 <<< n).extractLsb' m 8 = 0 := by
  refine BitVec.eq_of_getLsbD_eq fun i hi => ?_
  rcases h with h | h
  · simp [BitVec.getLsbD_extractLsb', show m + i < n by omega]
  · simp [BitVec.getLsbD_extractLsb', BitVec.getLsbD_of_ge x (m + i - n) (by omega)]

/-- The opcode stands in the low byte alone. -/
theorem fields_pattern (op : Op) : fieldA op.pattern = 0 ∧ fieldB op.pattern = 0 ∧ fieldC op.pattern = 0 := by
  cases op <;> decide

/-- Each field of a command word is the byte put there. -/
@[simp] theorem fields_commandWord (op : Op) (a b c : BitVec 8) :
    fieldA (commandWord op a b c) = a ∧ fieldB (commandWord op a b c) = b ∧ fieldC (commandWord op a b c) = c := by
  obtain ⟨hA, hB, hC⟩ := fields_pattern op
  refine ⟨?_, ?_, ?_⟩
  · rw [commandWord, fieldA_or, fieldA_or, fieldA_or, hA, fieldA, fieldA, fieldA, extract_shifted_same a (by omega),
      extract_shifted_other b (by omega), extract_shifted_other c (by omega)]
    simp
  · rw [commandWord, fieldB_or, fieldB_or, fieldB_or, hB, fieldB, fieldB, fieldB, extract_shifted_other a (by omega),
      extract_shifted_same b (by omega), extract_shifted_other c (by omega)]
    simp
  · rw [commandWord, fieldC_or, fieldC_or, fieldC_or, hC, fieldC, fieldC, fieldC, extract_shifted_other a (by omega),
      extract_shifted_other b (by omega), extract_shifted_same c (by omega)]
    simp

/-- A word with a row's opcode is that row's command word of its own fields. -/
theorem eq_commandWord {op : Op} {w : Word} (h : w &&& 0xFF = op.pattern) :
    w = commandWord op (fieldA w) (fieldB w) (fieldC w) :=
  eq_of_fields (h.trans (commandWord_low ..).symm) (by simp) (by simp) (by simp)

/-! ## Reserved bits and rows (R73, R78) -/

/-- The bits of the fields `B` and `C` that a row reserves are zero. -/
def Op.spells (op : Op) (b c : BitVec 8) : Prop := b &&& fieldB op.mask = 0 ∧ c &&& fieldC op.mask = 0

/-- Every mask holds the whole opcode, and no row reserves a bit of the field `A`. -/
theorem mask_low (op : Op) : op.mask &&& 0xFF = 0xFF ∧ fieldA op.mask = 0 := by
  cases op <;> decide

/-- A word meets a row's mask and match exactly if it has the row's opcode and none of its reserved bits. -/
theorem and_mask_eq_pattern_iff (op : Op) (w : Word) :
    w &&& op.mask = op.pattern ↔ w &&& 0xFF = op.pattern ∧ op.spells (fieldB w) (fieldC w) := by
  obtain ⟨hA, hB, hC⟩ := fields_pattern op
  obtain ⟨hlow, hmA⟩ := mask_low op
  have hand : (w &&& op.mask) &&& 0xFF = w &&& 0xFF := by rw [BitVec.and_assoc, hlow]
  have hpat : op.pattern &&& 0xFF = op.pattern := by cases op <;> decide
  constructor
  · intro h
    refine ⟨?_, ?_, ?_⟩
    · rw [← hand, h, hpat]
    · rw [← fieldB_and, h, hB]
    · rw [← fieldC_and, h, hC]
  · rintro ⟨hop, hb, hc⟩
    refine eq_of_fields ?_ ?_ ?_ ?_
    · rw [hand, hop, hpat]
    · rw [fieldA_and, hmA, hA]; simp
    · rw [fieldB_and, hb, hB]
    · rw [fieldC_and, hc, hC]

theorem pattern_injective {p q : Op} : p.pattern = q.pattern → p = q := by
  cases p <;> cases q <;> decide

/-- At most one row matches a word, and the decoder finds the row that does (R78). -/
theorem findOp_eq_some_iff (w : Word) (op : Op) :
    findOp w = some op ↔ w &&& 0xFF = op.pattern ∧ op.spells (fieldB w) (fieldC w) := by
  have hfound {p : Op} (h : findOp w = some p) : w &&& p.mask = p.pattern := by
    simpa using List.find?_some h
  rw [← and_mask_eq_pattern_iff]
  refine ⟨hfound, fun h => ?_⟩
  rcases hf : findOp w with _ | p
  · have := List.find?_eq_none.mp hf op (by cases op <;> decide)
    simp [h] at this
  · have hp := ((and_mask_eq_pattern_iff p w).mp (hfound hf)).1
    have hop := ((and_mask_eq_pattern_iff op w).mp h).1
    rw [pattern_injective (hp.symm.trans hop)]

/-- The decoder finds the row of a command word whose reserved bits are zero. -/
theorem findOp_commandWord {op : Op} {a b c : BitVec 8} (h : op.spells b c) :
    findOp (commandWord op a b c) = some op :=
  (findOp_eq_some_iff _ op).mpr ⟨commandWord_low op a b c, by simpa using h⟩

end Sys2Proof
end

section
/-! SUPPORT. Decoding (30_encoding.md R78): by how many operand words the row takes, what decodes and what from. -/

namespace Sys2Proof

/-! ## Operand words (R74) -/

/-- A row's command from its command word and all its operand words. -/
def Op.build (op : Op) (w : Word) : List Word → Option Instr
  | [] => op.build0 w
  | [x] => op.build1 w x
  | [x, y] => op.build2 w x y
  | _ => none

/-- A row with one operand word has no command without. -/
theorem build0_eq_none_of_build1 {op : Op} {w x : Word} {i : Instr} (h : op.build1 w x = some i) :
    op.build0 w = none := by
  cases op <;> cases h <;> rfl

/-- A row with two operand words has no command with fewer. -/
theorem build_eq_none_of_build2 {op : Op} {w x y : Word} {i : Instr} (h : op.build2 w x y = some i) :
    op.build0 w = none ∧ op.build1 w x = none := by
  cases op <;> cases h <;> exact ⟨rfl, rfl⟩

/-- Only a row with one operand word has a `CFG` to check (R77). -/
theorem wellFormed_of_build0 {op : Op} {w : Word} {i : Instr} (h : op.build0 w = some i) : i.wellFormed = true := by
  cases op <;> cases h <;> rfl

theorem wellFormed_of_build2 {op : Op} {w x y : Word} {i : Instr} (h : op.build2 w x y = some i) :
    i.wellFormed = true := by
  cases op <;> cases h <;> rfl

/-- R78 steps 3 and 4: a row's operand words are read exactly if they build a well-formed command. -/
theorem decodeOperands_eq_ok_iff (op : Op) (w : Word) (ws rest : List Word) (i : Instr) :
    decodeOperands op w ws = .ok (i, rest)
      ↔ i.wellFormed = true ∧ ∃ xs, ws = xs ++ rest ∧ op.build w xs = some i := by
  constructor
  · intro h
    unfold decodeOperands at h
    split at h
    next j hj =>
      cases h
      exact ⟨wellFormed_of_build0 hj, [], rfl, hj⟩
    next => cases h
    next x ws h0 =>
      split at h
      next j hj =>
        unfold checkCfg at h
        split at h
        next hwf =>
          cases h
          exact ⟨hwf, [x], rfl, hj⟩
        next => cases h
      next => cases h
      next y ws h1 =>
        split at h
        next j hj =>
          cases h
          exact ⟨wellFormed_of_build2 hj, [x, y], rfl, hj⟩
        next => cases h
  · rintro ⟨hwf, xs, rfl, h⟩
    match xs, h with
    | [], h =>
      have h : op.build0 w = some i := h
      simp [decodeOperands, h]
    | [x], h =>
      have h : op.build1 w x = some i := h
      simp [decodeOperands, build0_eq_none_of_build1 h, h, checkCfg, hwf, Except.map]
    | [x, y], h =>
      have h : op.build2 w x y = some i := h
      simp [decodeOperands, build_eq_none_of_build2 h, h]

/-- R78: what decodes is a row's opcode with none of its reserved bits, and operand words that build a well-formed
command. -/
theorem decode_eq_ok_iff (ws rest : List Word) (i : Instr) :
    decode ws = .ok (i, rest)
      ↔ i.wellFormed = true ∧ ∃ op w xs, ws = w :: (xs ++ rest) ∧ findOp w = some op ∧ op.build w xs = some i := by
  rcases ws with _ | ⟨w, ws⟩
  · simp [decode]
  · rcases hf : findOp w with _ | op
    · simp [decode, hf]
    · simp [decode, hf, decodeOperands_eq_ok_iff]

/-! ## A command's words are those it is built from -/

/-- A byte whose bits are all reserved is 0. -/
theorem eq_zero_of_reserved {x : BitVec 8} (h : x &&& 0xFF = 0) : 0 = x := by
  revert x; decide

/-- A byte with every bit but bit 0 reserved is that bit. -/
theorem bitByte_of_reserved {x : BitVec 8} (h : x &&& 0xFE = 0) : bitByte (x.getLsbD 0) = x := by
  revert x; decide

/-- A byte with every bit but bits 0 and 1 reserved is those two bits. -/
theorem bitBytes_of_reserved {x : BitVec 8} (h : x &&& 0xFC = 0) :
    bitByte (x.getLsbD 0) ||| (bitByte (x.getLsbD 1) <<< 1) = x := by
  revert x; decide

theorem bitByte_reserved (b : Bool) : bitByte b &&& 0xFE = 0 := by
  cases b <;> rfl

theorem bitBytes_reserved (b c : Bool) : (bitByte b ||| (bitByte c <<< 1)) &&& 0xFC = 0 := by
  cases b <;> cases c <;> rfl

@[simp] theorem getElem_bitByte_zero (b : Bool) : (bitByte b)[0] = b := by
  cases b <;> rfl

@[simp] theorem getElem_bitByte_one (b : Bool) : (bitByte b)[1] = false := by
  cases b <;> rfl

/-- A word of a row, before its operand words, is that row's command word of fields `B` and `C` equal to its own. -/
theorem commandWord_cons_eq {op : Op} {w : Word} {b c : BitVec 8} (hop : w &&& 0xFF = op.pattern) (hb : b = fieldB w)
    (hc : c = fieldC w) (xs : List Word) : commandWord op (fieldA w) b c :: xs = w :: xs := by
  rw [hb, hc, ← eq_commandWord hop]

/-- A command built from a word of its row and operand words is encoded in just those: by row, the fields are kept and
the reserved bits are zero. -/
theorem encode_of_build {op : Op} {w : Word} {xs : List Word} {i : Instr} (hf : findOp w = some op)
    (h : op.build w xs = some i) : encode i = w :: xs := by
  obtain ⟨hop, hb, hc⟩ := (findOp_eq_some_iff w op).mp hf
  match xs with
  | [] =>
    cases op <;> cases h
    case irqSetEnabled => exact commandWord_cons_eq hop (bitByte_of_reserved hb) (eq_zero_of_reserved hc) _
    case irqSetPriority => exact commandWord_cons_eq hop rfl (eq_zero_of_reserved hc) _
    case extiConfigure => exact commandWord_cons_eq hop rfl rfl _
    case gpioReadPin => exact commandWord_cons_eq hop rfl (eq_zero_of_reserved hc) _
    case gpioWritePin => exact commandWord_cons_eq hop rfl (bitByte_of_reserved hc) _
    case gpioTogglePin => exact commandWord_cons_eq hop rfl (eq_zero_of_reserved hc) _
    case extiHandle | spiIrqHandle | spiCloseTx | spiCloseRx =>
      exact commandWord_cons_eq hop (eq_zero_of_reserved hb) (eq_zero_of_reserved hc) _
  | [x] =>
    cases op <;> cases h
    case gpioConfigure => exact commandWord_cons_eq hop rfl rfl _
    case spiInit => exact commandWord_cons_eq hop (bitBytes_of_reserved hb) (eq_zero_of_reserved hc) _
  | [x, y] =>
    cases op <;> cases h
    case spiTransmit | spiReceive | spiStartTx | spiStartRx =>
      exact commandWord_cons_eq hop (eq_zero_of_reserved hb) (eq_zero_of_reserved hc) _
  | _ :: _ :: _ :: _ => cases h

/-- Every command is built from the words of its encoding: by row, a field it does not use is zero
there, one it uses whole has no reserved bits, and one that holds flags has no others set. -/
theorem build_of_encode (i : Instr) :
    ∃ op w xs, encode i = w :: xs ∧ findOp w = some op ∧ op.build w xs = some i := by
  have unused (m : BitVec 8) : 0 &&& m = 0 := BitVec.zero_and
  have full (b : BitVec 8) : b &&& 0 = 0 := BitVec.and_zero
  cases i
  case irqSetEnabled index enabled =>
    exact ⟨_, _, _, rfl, findOp_commandWord ⟨bitByte_reserved enabled, unused _⟩, by simp [Op.build, Op.build0]⟩
  case irqSetPriority | gpioReadPin | gpioTogglePin =>
    exact ⟨_, _, _, rfl, findOp_commandWord ⟨full _, unused _⟩, by simp [Op.build, Op.build0]⟩
  case extiConfigure pin port trigger =>
    exact ⟨_, _, _, rfl, findOp_commandWord ⟨full port, full trigger⟩, by simp [Op.build, Op.build0]⟩
  case gpioWritePin pin port value =>
    exact ⟨_, _, _, rfl, findOp_commandWord ⟨full port, bitByte_reserved value⟩, by simp [Op.build, Op.build0]⟩
  case extiHandle | spiIrqHandle | spiCloseTx | spiCloseRx =>
    exact ⟨_, _, _, rfl, findOp_commandWord ⟨unused _, unused _⟩, by simp [Op.build, Op.build0]⟩
  case gpioConfigure pin port mode cfg =>
    exact ⟨_, _, _, rfl, findOp_commandWord ⟨full port, full mode⟩, by simp [Op.build, Op.build1]⟩
  case spiInit inst dff errie cr1cfg =>
    exact ⟨_, _, _, rfl, findOp_commandWord ⟨bitBytes_reserved dff errie, unused _⟩, by simp [Op.build, Op.build1]⟩
  case spiTransmit | spiReceive | spiStartTx | spiStartRx =>
    exact ⟨_, _, _, rfl, findOp_commandWord ⟨unused _, unused _⟩, by simp [Op.build, Op.build2]⟩

/-- Decoding reads well-formed commands from their encodings and nothing else. -/
theorem decode_eq_ok_iff_encode (ws rest : List Word) (i : Instr) :
    decode ws = .ok (i, rest) ↔ i.wellFormed = true ∧ ws = encode i ++ rest := by
  rw [decode_eq_ok_iff]
  refine and_congr_right fun _ => ⟨?_, ?_⟩
  · rintro ⟨op, w, xs, rfl, hf, hbuild⟩
    rw [encode_of_build hf hbuild, List.cons_append]
  · rintro rfl
    obtain ⟨op, w, xs, hwords, hf, hbuild⟩ := build_of_encode i
    exact ⟨op, w, xs, by rw [hwords, List.cons_append], hf, hbuild⟩

/-- Settles O1: a well-formed command is read from its encoding. -/
theorem decodeOfEncode : Obligations.DecodeOfEncode := fun i ws hwf =>
  (decode_eq_ok_iff_encode _ ws i).mpr ⟨hwf, rfl⟩

/-- Settles O2: a command is read from nothing but its encoding. -/
theorem encodeOfDecode : Obligations.EncodeOfDecode := fun ws rest i =>
  (decode_eq_ok_iff_encode ws rest i).mp

/-- Settles O3: each sample evaluates. -/
theorem sampleWordsDecode : Obligations.SampleWordsDecode :=
  ⟨rfl, rfl, rfl, rfl, rfl, rfl, rfl, rfl, rfl, rfl, rfl, rfl, rfl, rfl, rfl, rfl, rfl⟩

end Sys2Proof
end

section
/-! SUPPORT. What a command refuses before its first access: an undecodable word (30_encoding.md R78) and a field out of
range (R79). -/

namespace Sys2Proof.Machine

open Host (Outcome)

/-! ## A word that does not decode -/

theorem runTop_of_undecodable {s : State} {e : DecodeRefusal} (hstuck : s.top.stuck = none)
    (hleft : s.top.completed = false) (hd : decode s.fetchWords = .error e) : runTop s = .next s.refuse := by
  simp [runTop, hstuck, hleft, hd]

/-- Settles O5: the scheduled context refuses its word. -/
theorem stepRefusesUndecodableWord : Obligations.StepRefusesUndecodableWord := by
  intro s o rest e hret hsched hstuck hleft hd
  rw [step_eq, hret, hsched]
  exact runTop_of_undecodable (s := { s with sched := rest, order := o }) hstuck hleft hd

/-! ## Range checks (R79) -/

theorem triggerOfCode_eq_none {t : BitVec 8} (h : 2 < t.toNat) : triggerOfCode t = none := by
  have hne (n : BitVec 8) (hn : n.toNat ≤ 2) : t ≠ n := by rintro rfl; omega
  simp [triggerOfCode, hne 0#8 (by decide), hne 1#8 (by decide), hne 2#8 (by decide)]

theorem pinModeOfCode_eq_none {c : BitVec 8} (h : 6 < c.toNat) : pinModeOfCode c = none := by
  have hne (n : BitVec 8) (hn : n.toNat ≤ 6) : c ≠ n := by rintro rfl; omega
  simp [pinModeOfCode, hne 0#8 (by decide), hne 1#8 (by decide), hne 2#8 (by decide), hne 3#8 (by decide),
    hne 4#8 (by decide), hne 5#8 (by decide), hne 6#8 (by decide)]

section Checks

variable {s : State} {c : FaultCode}

/-- A check of `rangeFault` and the same check of a command agree, when what follows them does. -/
theorem raises_of_check {p : Prop} [Decidable p] {a : FaultCode} {k : Option FaultCode}
    {x : Outcome State Fault Refusal} (hx : k = some c → x = .next (s.raise c))
    (h : (if p then some a else k) = some c) : (if p then .next (s.raise a) else x) = .next (s.raise c) := by
  by_cases hp : p
  · rw [if_pos hp] at h ⊢
    cases h
    rfl
  · rw [if_neg hp] at h ⊢
    exact hx h

/-- The last check of a command: nothing else is out of range. -/
theorem raises_of_last_check {p : Prop} [Decidable p] {a : FaultCode} {x : Outcome State Fault Refusal}
    (h : (if p then some a else none) = some c) : (if p then .next (s.raise a) else x) = .next (s.raise c) :=
  raises_of_check (k := none) nofun h

/-- GPIO_WRITE_PIN and GPIO_TOGGLE_PIN make the same checks. -/
theorem odrUpdate_raises {n p : BitVec 8} (f : Word → Word) (hm : s.mstate = .fresh)
    (h : rangeFault s (.gpioTogglePin n p) = some c) : odrUpdate n p f s = .next (s.raise c) := by
  rw [odrUpdate, hm]
  exact raises_of_check raises_of_last_check h

theorem blockingTransfer_raises {d : Direction} {k : BitVec 8} {buf len : Word} (hm : s.mstate = .fresh)
    (h : rangeFault s (blockingCommand d k buf len) = some c) :
    blockingTransfer d k buf len s = .next (s.raise c) := by
  rw [blockingTransfer, hm]
  cases d <;> exact raises_of_last_check h

theorem startTransfer_raises {d : Direction} {k : BitVec 8} {buf len : Word} (hm : s.mstate = .fresh)
    (h : rangeFault s (startCommand d k buf len) = some c) :
    startTransfer d k buf len s = .next (s.raise c) := by
  rw [startTransfer, hm]
  cases d <;> exact raises_of_last_check h

theorem closeTransfer_raises {d : Direction} {k : BitVec 8} (hm : s.mstate = .fresh)
    (h : rangeFault s (closeCommand d k) = some c) : closeTransfer d k s = .next (s.raise c) := by
  rw [closeTransfer, hm]
  cases d <;> exact raises_of_last_check h

theorem execExtiConfigure_raises {n p t : BitVec 8} (hm : s.mstate = .fresh)
    (h : rangeFault s (.extiConfigure n p t) = some c) : execExtiConfigure n p t s = .next (s.raise c) := by
  rw [execExtiConfigure, hm]
  refine raises_of_check (raises_of_check fun ht => ?_) h
  obtain ⟨hcode, hc⟩ := Option.ite_none_right_eq_some.mp ht
  rw [triggerOfCode_eq_none hcode]
  cases hc
  rfl

theorem execGpioConfigure_raises {n p m : BitVec 8} {cfg : Word} (hm : s.mstate = .fresh)
    (h : rangeFault s (.gpioConfigure n p m cfg) = some c) : execGpioConfigure n p m cfg s = .next (s.raise c) := by
  rw [execGpioConfigure, hm]
  refine raises_of_check (raises_of_check fun ht => ?_) h
  obtain ⟨hcode, hc⟩ := Option.ite_none_right_eq_some.mp ht
  rw [pinModeOfCode_eq_none hcode]
  cases hc
  rfl

end Checks

/-- Settles O24: each command makes the checks of `rangeFault` in their order. -/
theorem rangeFaultsBeforeAnyAccess : Obligations.RangeFaultsBeforeAnyAccess := by
  intro i s c hm h
  cases i with
  | irqSetEnabled x e =>
    rw [exec, execIrqSetEnabled, hm]
    exact raises_of_last_check h
  | irqSetPriority x p =>
    rw [exec, execIrqSetPriority, hm]
    exact raises_of_check raises_of_last_check h
  | extiConfigure n p t => exact execExtiConfigure_raises hm h
  | extiHandle n =>
    rw [exec, execExtiHandle, hm]
    exact raises_of_last_check h
  | gpioConfigure n p m cfg => exact execGpioConfigure_raises hm h
  | gpioReadPin n p =>
    rw [exec, execGpioReadPin, hm]
    exact raises_of_check raises_of_last_check h
  | gpioWritePin n p v => exact odrUpdate_raises _ hm h
  | gpioTogglePin n p => exact odrUpdate_raises _ hm h
  | spiInit k dff errie cr1 =>
    rw [exec, execSpiInit, hm]
    exact raises_of_last_check h
  | spiTransmit k buf len => exact blockingTransfer_raises (d := .tx) hm h
  | spiReceive k buf len => exact blockingTransfer_raises (d := .rx) hm h
  | spiStartTx k buf len => exact startTransfer_raises (d := .tx) hm h
  | spiStartRx k buf len => exact startTransfer_raises (d := .rx) hm h
  | spiIrqHandle k =>
    rw [exec, execSpiIrqHandle, hm]
    exact raises_of_last_check h
  | spiCloseTx k => exact closeTransfer_raises (d := .tx) hm h
  | spiCloseRx k => exact closeTransfer_raises (d := .rx) hm h

end Sys2Proof.Machine
end

section
/-! SUPPORT. The interrupt controller's commands (40_nvic.md R84 to R90): what IRQ_SET_ENABLED does to the enables, and
what IRQ_SET_PRIORITY does to the priority fields. -/

namespace Sys2Proof.Machine

/-! ## Entry (R86) -/

/-- What one step does to the interrupt contexts' sources: nothing, an entry of the chosen source, or a due return. -/
theorem step_sources {s t : State} (h : step s = .next t) :
    t.sources = s.sources ∨ (∃ i, s.chosen = some i ∧ t.sources = i :: s.sources)
      ∨ (s.mustReturn = true ∧ ∃ i, s.sources = i :: t.sources) := by
  rcases step_stack h with ⟨hret, ht⟩ | ⟨i, hi, ht⟩ | ht | ⟨-, ht⟩
  · obtain ⟨x, l, hisrs, -, hpop⟩ := returnInterrupt_stack_of_mustReturn hret
    refine .inr (.inr ⟨hret, x.source, ?_⟩)
    rw [State.sources, State.sources, ht, hpop, hisrs, List.map_cons]
  · refine .inr (.inl ⟨i, hi, ?_⟩)
    rw [State.sources, ht]
    rfl
  · exact .inl (by rw [State.sources, ht, State.sources])
  · exact .inl (Stack.suspended_eq ht).1

/-- Settles O16: a step adds only the chosen source to the stack, and that one is enabled (R143). -/
theorem disabledSourceIsNotEntered : Obligations.DisabledSourceIsNotEntered := by
  intro s t i hoff h hi
  rcases step_sources h with heq | ⟨j, hj, heq⟩ | ⟨-, j, heq⟩
  · exact heq ▸ hi
  · rcases List.mem_cons.mp (heq ▸ hi) with rfl | hi
    · obtain ⟨-, hon, -⟩ := chosen_spec s i hj
      exact absurd (hoff.symm.trans hon) Bool.false_ne_true
    · exact hi
  · exact heq ▸ List.mem_cons_of_mem j hi

/-! ## Enables (R84, R88) -/

/-- The register that IRQ_SET_ENABLED writes for source `j` (R84). -/
def enableBank (e : Bool) (j : Nat) : Reg := if e then .iser (bankOf j) else .icer (bankOf j)

theorem exec_irqSetEnabled {i : BitVec 8} {s : State} (e : Bool) (hm : s.mstate = .fresh)
    (hi : i.toNat < s.cfg.nIrq) :
    exec (.irqSetEnabled i e) s = .next (s.regWrite (enableBank e i.toNat) (oneHot (bitOf i.toNat))).complete := by
  rw [exec, execIrqSetEnabled, hm]
  exact if_neg (Nat.not_le.mpr hi)

/-- The one-hot write makes the source's enable the operand, and keeps every other (R84). -/
theorem enabled_regWrite_enableBank {s : State} {j : Nat} (e : Bool) (hj : j < s.cfg.nIrq) (k : Nat) :
    (s.regWrite (enableBank e j) (oneHot (bitOf j))).enabled k = if k = j then e else s.enabled k := by
  cases e with
  | true =>
    rw [enableBank, if_pos rfl, enabled_set s j hj]
    split <;> simp [*]
  | false =>
    rw [enableBank, if_neg Bool.false_ne_true, enabled_clear s j hj]
    split <;> simp [*]

/-- A write of an enable bank changes the enables alone. -/
theorem complete_regWrite_enableBank (s : State) (e : Bool) (j : Nat) (v : Word) :
    (s.regWrite (enableBank e j) v).complete =
      { s.complete with nvic := { s.nvic with en := (s.regWrite (enableBank e j) v).nvic.en } } := by
  cases e <;> rfl

/-- Settles O27: the one write of R84. -/
theorem irqSetEnabledResult : Obligations.IrqSetEnabledResult := by
  intro i e s hm hi
  refine ⟨(s.regWrite (enableBank e i.toNat) (oneHot (bitOf i.toNat))).nvic.en, ?_, ?_⟩
  · rw [exec_irqSetEnabled e hm hi, complete_regWrite_enableBank]
  · exact enabled_regWrite_enableBank e hi

/-- Both banks read the enables of their present sources (R16, R17). -/
theorem getLsbD_regValue_iser (s : State) (b : Nat) {j : Nat} (hj : j < 32) :
    (s.regValue (.iser b)).getLsbD j = (s.enabled (32 * b + j) && decide (32 * b + j < s.cfg.nIrq)) := by
  have hn : (s.cfg.nIrq : Nat) ≤ 240 := Nat.le_of_lt_succ s.cfg.nIrq.isLt
  simp [State.regValue, State.enabled, hj, hn]

theorem regValue_icer (s : State) (b : Nat) : s.regValue (.icer b) = s.regValue (.iser b) := rfl

/-- Clearing one enable clears its bit of its bank, and keeps the others (R88, R91). -/
theorem getLsbD_regValue_iser_of_cleared {s u : State} {i : Nat} (hcfg : u.cfg = s.cfg)
    (hen : ∀ j, u.enabled j = if j = i then false else s.enabled j) {j : Nat} (hj : j < 32) :
    (u.regValue (.iser (i / 32))).getLsbD j
      = if j = i % 32 then false else (s.regValue (.iser (i / 32))).getLsbD j := by
  rw [getLsbD_regValue_iser u _ hj, getLsbD_regValue_iser s _ hj, hen, hcfg]
  have hplace : 32 * (i / 32) + j = i ↔ j = i % 32 := by omega
  simp only [hplace]
  split <;> simp

/-- Settles O28: the second write undoes the first one at its source, and neither touches another. -/
theorem enableDisableRoundTrip : Obligations.EnableDisableRoundTrip := by
  intro i s t t' u hm hi ht hen hcfg hm' hu
  have hi' : i.toNat < t'.cfg.nIrq := hcfg ▸ hi
  cases (exec_irqSetEnabled true hm hi).symm.trans ht
  cases (exec_irqSetEnabled false hm' hi').symm.trans hu
  have hoff (j : Nat) : (t'.regWrite (enableBank false i.toNat) (oneHot (bitOf i.toNat))).complete.enabled j
      = if j = i.toNat then false else s.enabled j := by
    calc _ = if j = i.toNat then false else t'.enabled j := enabled_regWrite_enableBank false hi' j
      _ = if j = i.toNat then false else if j = i.toNat then true else s.enabled j := by
        rw [← enabled_regWrite_enableBank true hi j, State.enabled, hen]
        rfl
      _ = _ := by split <;> rfl
  have hbank {j : Nat} (hj : j < 32) := getLsbD_regValue_iser_of_cleared (s := s) (by simpa using hcfg) hoff hj
  exact ⟨hoff, fun j hj => ⟨hbank hj, by simpa only [regValue_icer] using hbank hj⟩⟩

/-! ## Priority fields (R18, R65) -/

/-- A requested priority at its place in the priority register of source `j` (R85). -/
def priorityField (j : Nat) (p : BitVec 8) : Word := p.setWidth 32 <<< priorityShift j

/-- The priority register of source `j`. -/
def State.priorityReg (s : State) (j : Nat) : Word := s.nvic.ipr[iprOf j]?.getD 0

theorem priorityShift_lt (j : Nat) : priorityShift j < 29 := by
  unfold priorityShift prioBits
  omega

theorem getLsbD_priorityMask (j k : Nat) :
    (priorityMask j).getLsbD k = decide (priorityShift j ≤ k ∧ k < priorityShift j + 4) := by
  have hsh := priorityShift_lt j
  have hmask (n : Nat) : (BitVec.ofNat 32 (2 ^ prioBits - 1)).getLsbD n = decide (n < 4) := by
    rw [BitVec.getLsbD_ofNat, Nat.testBit_two_pow_sub_one, prioBits]
    grind
  rw [priorityMask, BitVec.getLsbD_shiftLeft, hmask]
  grind

/-- Sources that share a priority register have disjoint fields of it (R91). -/
theorem priorityMask_and_not {j k : Nat} (hreg : iprOf j = iprOf k) (hne : j ≠ k) :
    priorityMask j &&& ~~~priorityMask k = priorityMask j := by
  have happart : priorityShift j + 4 ≤ priorityShift k ∨ priorityShift k + 4 ≤ priorityShift j := by
    unfold iprOf at hreg
    unfold priorityShift
    omega
  refine BitVec.eq_of_getLsbD_eq fun n hn => ?_
  simp only [BitVec.getLsbD_and, BitVec.getLsbD_not, getLsbD_priorityMask]
  grind

/-- A priority of at most `PRIO_BITS` bits stays within its source's field. -/
theorem priorityField_and_mask (j : Nat) {p : BitVec 8} (hp : p.toNat < 16) :
    priorityField j p &&& priorityMask j = priorityField j p := by
  have hfits : p.setWidth 32 &&& BitVec.ofNat 32 (2 ^ prioBits - 1) = p.setWidth 32 := by
    revert p
    decide
  rw [priorityField, priorityMask, ← BitVec.shiftLeft_and_distrib, hfits]

/-- The field of a present source is writable (R18). -/
theorem priorityMask_and_iprMask {j n : Nat} (hj : j < n) :
    priorityMask j &&& iprMask n (iprOf j) = priorityMask j := by
  have hbyte : iprByteMask n (iprOf j) (j % 4) = priorityMask j := by
    rw [iprByteMask, if_pos (by unfold iprOf; omega), priorityMask, priorityMask, priorityShift, priorityShift,
      Nat.mod_mod]
  have hk : j % 4 < 4 := Nat.mod_lt _ (by decide)
  refine BitVec.eq_of_getLsbD_eq fun m _ => ?_
  rw [iprMask, ← hbyte]
  interval_cases j % 4 <;> simp only [BitVec.getLsbD_and, BitVec.getLsbD_or] <;> grind

theorem priorityField_and_iprMask {j n : Nat} (hj : j < n) {p : BitVec 8} (hp : p.toNat < 16) :
    priorityField j p &&& iprMask n (iprOf j) = priorityField j p := by
  rw [← priorityField_and_mask j hp, BitVec.and_assoc, priorityMask_and_iprMask hj]

/-- A priority is its source's field of the register (R19). -/
theorem prio_eq (s : State) (j : Nat) :
    s.prio j = ((s.priorityReg j &&& priorityMask j) >>> priorityShift j).toNat := by
  have hsh := priorityShift_lt j
  have hmask : priorityMask j >>> priorityShift j = BitVec.ofNat 32 (2 ^ prioBits - 1) := by
    unfold priorityMask
    generalize priorityShift j = n at hsh
    revert n
    decide
  rw [BitVec.ushiftRight_and_distrib, hmask]
  rfl

/-- A request within the field reads back from it (R89). -/
theorem priorityField_shiftRight (j : Nat) {p : BitVec 8} (hp : p.toNat < 16) :
    priorityField j p >>> priorityShift j = p.setWidth 32 := by
  have hsh := priorityShift_lt j
  have hfits (n : Nat) (hn : 4 ≤ n) : p.getLsbD n = false :=
    Nat.testBit_lt_two_pow (hp.trans_le (Nat.pow_le_pow_right (by decide) hn : 2 ^ 4 ≤ 2 ^ n))
  refine BitVec.eq_of_getLsbD_eq fun n hn => ?_
  simp only [priorityField, BitVec.getLsbD_ushiftRight, BitVec.getLsbD_shiftLeft, BitVec.getLsbD_setWidth]
  grind

/-! ## IRQ_SET_PRIORITY (R85, R89, R90) -/

section SetPriority

variable {i p : BitVec 8} {s : State}

theorem exec_irqSetPriority_fresh (hm : s.mstate = .fresh) (hi : i.toNat < s.cfg.nIrq) (hp : p.toNat < 16) :
    exec (.irqSetPriority i p) s = .next (s.goto (.priorityWrite (s.regValue (.ipr (iprOf i.toNat))))) := by
  rw [exec, execIrqSetPriority, hm]
  exact (if_neg (Nat.not_le.mpr hi)).trans (if_neg (Nat.not_le.mpr hp))

theorem exec_irqSetPriority_write {v : Word} (hm : s.mstate = .priorityWrite v) :
    exec (.irqSetPriority i p) s
      = .next (s.regWrite (.ipr (iprOf i.toNat)) (v ||| priorityField i.toNat p)).complete := by
  rw [exec, execIrqSetPriority, hm]
  rfl

/-- Settles O29: the two accesses of R85. -/
theorem irqSetPriorityResult : Obligations.IrqSetPriorityResult :=
  fun _ _ _ hi hp => ⟨fun hm => exec_irqSetPriority_fresh hm hi hp, fun _ hm => exec_irqSetPriority_write hm⟩

/-- A write of a present source's priority register changes that register alone, to the writable bits of the value. -/
theorem priorityReg_regWrite {j : Nat} (hj : j < s.cfg.nIrq) (v : Word) (k : Nat) :
    (s.regWrite (.ipr (iprOf j)) v).priorityReg k
      = if iprOf k = iprOf j then v &&& iprMask s.cfg.nIrq (iprOf j) else s.priorityReg k := by
  have hreg : iprOf j < 60 := by
    have := s.cfg.nIrq.isLt
    unfold iprOf
    omega
  simp only [State.priorityReg, State.regWrite, Vector.getElem?_setIfInBounds]
  grind

/-- The unimplemented bits of the priority registers are 0 (R18), so a read returns what the register holds. -/
theorem regValue_ipr (hwf : s.controllerWf) (j : Nat) : s.regValue (.ipr (iprOf j)) = s.priorityReg j := by
  obtain ⟨-, -, -, hipr⟩ := hwf
  rw [State.regValue, State.priorityReg]
  by_cases hreg : iprOf j < 60
  · simpa [hreg] using hipr ⟨iprOf j, hreg⟩
  · simp [hreg]

/-- What IRQ_SET_PRIORITY writes to the register it has read is the OR of the register and the request. -/
theorem priorityReg_after_write (hwf : s.controllerWf) (hi : i.toNat < s.cfg.nIrq) (hp : p.toNat < 16) {u : State}
    (hcfg : u.cfg = s.cfg) (k : Nat) :
    (u.regWrite (.ipr (iprOf i.toNat)) (s.regValue (.ipr (iprOf i.toNat)) ||| priorityField i.toNat p)).priorityReg k
      = if iprOf k = iprOf i.toNat then s.priorityReg i.toNat ||| priorityField i.toNat p else u.priorityReg k := by
  have hread : s.priorityReg i.toNat &&& iprMask s.cfg.nIrq (iprOf i.toNat) = s.priorityReg i.toNat := by
    rw [← regValue_ipr hwf, State.regValue, BitVec.and_assoc, BitVec.and_self]
  rw [priorityReg_regWrite (hcfg ▸ hi), hcfg, regValue_ipr hwf,
    or_and_eq_of_and_eq hread (priorityField_and_iprMask hi hp)]

/-- The field of the source becomes the OR of its old value and the request. -/
theorem or_priorityField_and_mask (x : Word) (j : Nat) (hp : p.toNat < 16) :
    (x ||| priorityField j p) &&& priorityMask j = x &&& priorityMask j ||| priorityField j p := by
  rw [BitVec.and_comm, BitVec.and_or_distrib_left, BitVec.and_comm _ x, BitVec.and_comm _ (priorityField j p),
    priorityField_and_mask j hp]

/-- The bits outside the source's field stay. -/
theorem or_priorityField_and_not_mask (x : Word) (j : Nat) (hp : p.toNat < 16) :
    (x ||| priorityField j p) &&& ~~~priorityMask j = x &&& ~~~priorityMask j := by
  have hout : ~~~priorityMask j &&& priorityField j p = 0#32 := by
    rw [← priorityField_and_mask j hp, BitVec.and_comm, BitVec.and_assoc, BitVec.and_not_self]
    exact BitVec.and_zero
  rw [BitVec.and_comm, BitVec.and_or_distrib_left, hout, BitVec.or_zero, BitVec.and_comm]

/-- Settles O30: the register becomes the OR of the value read and the shifted priority, which lies in the field. -/
theorem priorityReadsBack : Obligations.PriorityReadsBack := by
  intro i p s t t' u hwf hm hi hp ht _ hcfg hm' hu old new fmask val
  cases (exec_irqSetPriority_fresh hm hi hp).symm.trans ht
  rw [mstate_goto] at hm'
  cases (exec_irqSetPriority_write hm').symm.trans hu
  have hnew : new = old ||| val := (priorityReg_after_write hwf hi hp hcfg i.toNat).trans (if_pos rfl)
  have hmask : fmask = priorityMask i.toNat := rfl
  have hfield : new &&& fmask = old &&& fmask ||| val := by
    rw [hnew, hmask]
    exact or_priorityField_and_mask old i.toNat hp
  have hrest : new &&& ~~~fmask = old &&& ~~~fmask := by
    rw [hnew, hmask]
    exact or_priorityField_and_not_mask old i.toNat hp
  refine ⟨fun hzero => ?_, hfield, hrest⟩
  rw [hfield, hzero]
  exact BitVec.zero_or

/-- The state after one call of IRQ_SET_PRIORITY without interference. -/
def State.priorityCalled (s : State) (i p : BitVec 8) : State :=
  (s.regWrite (.ipr (iprOf i.toNat)) (s.regValue (.ipr (iprOf i.toNat)) ||| priorityField i.toNat p)).complete

theorem execRun_irqSetPriority (hi : i.toNat < s.cfg.nIrq) (hp : p.toNat < 16) :
    execRun 2 (.irqSetPriority i p) (s.goto .fresh) = .next (s.priorityCalled i p) := by
  rw [execRun_succ (exec_irqSetPriority_fresh (mstate_goto s _) hi hp), regValue_goto, goto_goto,
    execRun_succ (exec_irqSetPriority_write (mstate_goto s _)), regWrite_goto, complete_goto]
  rfl

theorem controllerWf_priorityCalled (hwf : s.controllerWf) : (s.priorityCalled i p).controllerWf :=
  controllerWf_regWrite hwf _ _

/-- One call ORs the priority into the source's own (R89). -/
theorem prio_priorityCalled_self (hwf : s.controllerWf) (hi : i.toNat < s.cfg.nIrq) (hp : p.toNat < 16) :
    (s.priorityCalled i p).prio i.toNat = s.prio i.toNat ||| p.toNat := by
  have hreg : (s.priorityCalled i p).priorityReg i.toNat = s.priorityReg i.toNat ||| priorityField i.toNat p :=
    (priorityReg_after_write hwf hi hp rfl i.toNat).trans (if_pos rfl)
  rw [prio_eq, hreg, or_priorityField_and_mask _ _ hp, BitVec.ushiftRight_or_distrib, BitVec.toNat_or, ← prio_eq,
    priorityField_shiftRight _ hp, BitVec.toNat_setWidth_of_le (by decide)]

/-- One call keeps every other source's priority: its field is in another register, or apart in the same one (R91). -/
theorem prio_priorityCalled_of_ne (hwf : s.controllerWf) (hi : i.toNat < s.cfg.nIrq) (hp : p.toNat < 16) {j : Nat}
    (hj : j ≠ i.toNat) : (s.priorityCalled i p).prio j = s.prio j := by
  have hreg : (s.priorityCalled i p).priorityReg j = _ := priorityReg_after_write hwf hi hp rfl j
  rw [prio_eq, prio_eq, hreg]
  split
  next hsame =>
    have hapart := priorityMask_and_not hsame hj
    have hshared : s.priorityReg i.toNat = s.priorityReg j := by rw [State.priorityReg, State.priorityReg, hsame]
    rw [← hapart, BitVec.and_comm (priorityMask j), ← BitVec.and_assoc, ← BitVec.and_assoc,
      or_priorityField_and_not_mask _ _ hp, hshared]
  next => rfl

theorem setPriorities_cons (ps : List (BitVec 8)) (hi : i.toNat < s.cfg.nIrq) (hp : p.toNat < 16) :
    setPriorities i (p :: ps) s = setPriorities i ps (s.priorityCalled i p) := by
  rw [setPriorities, execRun_irqSetPriority hi hp]

end SetPriority

/-- Settles O31: by induction on the calls, each of which ORs its priority into the source's own. -/
theorem prioritiesAccumulate : Obligations.PrioritiesAccumulate := by
  intro i ps
  induction ps with
  | nil => exact fun s _ _ _ => ⟨s, rfl, rfl, le_rfl, fun _ _ => rfl⟩
  | cons p ps ih =>
    intro s hwf hi hps
    have hp : p.toNat < 16 := hps p List.mem_cons_self
    obtain ⟨t, ht, hself, hle, hother⟩ := ih (s.priorityCalled i p) (controllerWf_priorityCalled hwf) hi
      fun q hq => hps q (List.mem_cons_of_mem p hq)
    have hcall := prio_priorityCalled_self hwf hi hp
    refine ⟨t, (setPriorities_cons ps hi hp).trans ht, ?_, ?_, fun j hj => ?_⟩
    · rw [hself, hcall, List.foldl_cons]
    · exact Nat.le_trans (hcall ▸ Nat.left_le_or) hle
    · exact (hother j hj).trans (prio_priorityCalled_of_ne hwf hi hp hj)

end Sys2Proof.Machine
end

section
/-! SUPPORT. The external-interrupt line router (41_exti_router.md R92 to R98): what its three steps leave behind, for
every command that runs it, and what EXTI_HANDLE does to the pending bits. -/

namespace Sys2Proof.Machine

/-! ## The Router's three steps (R93 to R95) -/

/-- STEP1: the line's trigger bits (R93). -/
def State.routeTriggers (s : State) (n : Nat) (t : Trigger) : State :=
  { s with exti := { s.exti with
      rtsr := putBit s.exti.rtsr n (t != .falling), ftsr := putBit s.exti.ftsr n (t != .rising) } }

/-- What the nibble of STEP2 is inserted into: the register as it stands, or nothing of it (R94). -/
def State.selectorBase (s : State) (n : Nat) : Word :=
  match s.cfg.exticrMode with
  | .merge => s.exticr[selectorReg n]?.getD 0
  | .whole => 0

/-- STEP2: the line's port (R94). -/
def State.routeSelector (s : State) (n p : Nat) : State :=
  { s with
    exticr := s.exticr.setIfInBounds (selectorReg n)
      (insertField (s.selectorBase n) 0xF (BitVec.ofNat 32 p) (selectorShift n)) }

/-- STEP3: the line's mask bit (R95). -/
def State.unmaskLine (s : State) (n : Nat) : State :=
  { s with exti := { s.exti with imr := putBit s.exti.imr n true } }

/-- The accesses of STEP2 (R94). -/
def State.selectorAccesses (s : State) : Nat :=
  match s.cfg.exticrMode with
  | .merge => 2
  | .whole => 1

theorem routerAccesses_eq (s : State) : routerAccesses s = 4 + (s.selectorAccesses + 2) := by
  unfold routerAccesses State.selectorAccesses
  cases s.cfg.exticrMode <;> rfl

/-- A whole store inserts the nibble into a register of zeros. -/
theorem insertField_zero (m x : Word) (sh : Nat) : insertField 0 m x sh = x <<< sh := by
  simp [insertField]

theorem routed_eq (s : State) (n p : Nat) (t : Trigger) :
    routed s n p t = ((s.routeTriggers n t).routeSelector n p).unmaskLine n := by
  cases hmode : s.cfg.exticrMode with
  | merge =>
    have hbase : (s.routeTriggers n t).selectorBase n = s.exticr[selectorReg n]?.getD 0 := by
      rw [State.selectorBase, State.routeTriggers, hmode]
    rw [routed, hmode, State.routeSelector, hbase]
    rfl
  | whole =>
    have hbase : (s.routeTriggers n t).selectorBase n = 0 := by rw [State.selectorBase, State.routeTriggers, hmode]
    rw [routed, hmode, State.routeSelector, hbase, insertField_zero]
    rfl

/-! ## A command that runs the Router -/

/-- At a position of the Router, command `i` makes that access of ROUTER(n, p, t), and goes on to `after` at its end. -/
def RunsRouter (i : Instr) (n p : Nat) (t : Trigger) (after : State → State) : Prop :=
  ∀ (s : State) (pos : RouterPos), exec i (s.goto (.router pos)) = .next (afterRouter after (routerStep n p t pos s))

/-- The Router's accesses do not see the position of the running context. -/
theorem routerStep_goto (n p : Nat) (t : Trigger) (pos : RouterPos) (s : State) (m : MState) :
    routerStep n p t pos (s.goto m) = ((routerStep n p t pos s).1, (routerStep n p t pos s).2.goto m) := by
  cases pos with
  | select => cases h : s.cfg.exticrMode <;> simp [routerStep, h]
  | setRead | setWrite _ | otherRead | otherWrite _ | selectWrite _ | maskRead | maskWrite _ => simp [routerStep]

theorem afterRouter_routerStep_goto {after : State → State} (hafter : ∀ u m, after (State.goto u m) = after u)
    (n p : Nat) (t : Trigger) (pos : RouterPos) (s : State) (m : MState) :
    afterRouter after (routerStep n p t pos (s.goto m)) = afterRouter after (routerStep n p t pos s) := by
  rw [routerStep_goto, afterRouter, afterRouter]
  cases (routerStep n p t pos s).1 with
  | none => exact hafter _ m
  | some pos' => exact goto_goto _ m _

section RunsRouter

variable {i : Instr} {n p : Nat} {t : Trigger} {after : State → State}

/-- One access inside the Router. -/
theorem execRun_router_succ (hi : RunsRouter i n p t after) {s u : State} {pos pos' : RouterPos}
    (h : routerStep n p t pos s = (some pos', u)) (k : Nat) :
    execRun (k + 1) i (s.goto (.router pos)) = execRun k i (u.goto (.router pos')) :=
  execRun_succ (by rw [hi, h]; rfl)

/-- The Router's last access. -/
theorem execRun_router_last (hi : RunsRouter i n p t after) {s u : State} {pos : RouterPos}
    (h : routerStep n p t pos s = (none, u)) (k : Nat) :
    execRun (k + 1) i (s.goto (.router pos)) = execRun k i (after u) :=
  execRun_succ (by rw [hi, h]; rfl)

theorem execRun_routeTriggers (hi : RunsRouter i n p t after) (s : State) (k : Nat) :
    execRun (k + 4) i (s.goto (.router .setRead)) = execRun k i ((s.routeTriggers n t).goto (.router .select)) := by
  rw [execRun_router_succ hi rfl, execRun_router_succ hi rfl, execRun_router_succ hi rfl, execRun_router_succ hi rfl]
  cases t <;> rfl

theorem execRun_routeSelector (hi : RunsRouter i n p t after) (s : State) (k : Nat) :
    execRun (k + s.selectorAccesses) i (s.goto (.router .select))
      = execRun k i ((s.routeSelector n p).goto (.router .maskRead)) := by
  cases hmode : s.cfg.exticrMode with
  | merge =>
    have hcount : s.selectorAccesses = 2 := by rw [State.selectorAccesses, hmode]
    have hbase : s.selectorBase n = s.regValue (.exticr (selectorReg n)) := by
      rw [State.selectorBase, hmode]
      rfl
    have hread : routerStep n p t .select s = (some (.selectWrite (s.regValue (.exticr (selectorReg n)))), s) := by
      rw [routerStep, hmode]
      rfl
    rw [hcount, execRun_router_succ hi hread, execRun_router_succ hi rfl, State.routeSelector, hbase]
    rfl
  | whole =>
    have hcount : s.selectorAccesses = 1 := by rw [State.selectorAccesses, hmode]
    have hbase : s.selectorBase n = 0 := by rw [State.selectorBase, hmode]
    have hstore : routerStep n p t .select s
        = (some .maskRead, s.regWrite (.exticr (selectorReg n)) (BitVec.ofNat 32 p <<< selectorShift n)) := by
      rw [routerStep, hmode]
    rw [hcount, execRun_router_succ hi hstore, State.routeSelector, hbase, insertField_zero]
    rfl

theorem execRun_unmaskLine (hi : RunsRouter i n p t after) (s : State) (k : Nat) :
    execRun (k + 2) i (s.goto (.router .maskRead)) = execRun k i (after (s.unmaskLine n)) := by
  rw [execRun_router_succ hi rfl, execRun_router_last hi rfl]
  rfl

/-- The Router without interference: its three steps, then what its command does next. -/
theorem execRun_router (hi : RunsRouter i n p t after) (s : State) (k : Nat) :
    execRun (k + routerAccesses s) i (s.goto (.router .setRead)) = execRun k i (after (routed s n p t)) := by
  have hcount : k + routerAccesses s = k + 2 + s.selectorAccesses + 4 := by rw [routerAccesses_eq]; omega
  calc execRun (k + routerAccesses s) i (s.goto (.router .setRead))
    _ = execRun (k + 2 + s.selectorAccesses + 4) i (s.goto (.router .setRead)) := by rw [hcount]
    _ = execRun (k + 2 + s.selectorAccesses) i ((s.routeTriggers n t).goto (.router .select)) :=
      execRun_routeTriggers hi s _
    _ = execRun (k + 2) i (((s.routeTriggers n t).routeSelector n p).goto (.router .maskRead)) :=
      execRun_routeSelector hi (s.routeTriggers n t) _
    _ = execRun k i (after (routed s n p t)) := by rw [execRun_unmaskLine hi, routed_eq]

end RunsRouter

/-! ## EXTI_CONFIGURE (R92) -/

/-- The code of a trigger policy (R75). -/
def triggerCode : Trigger → BitVec 8
  | .falling => 0
  | .rising => 1
  | .both => 2

@[simp] theorem triggerOfCode_triggerCode (t : Trigger) : triggerOfCode (triggerCode t) = some t := by
  cases t <;> rfl

theorem exists_eq_triggerCode {c : BitVec 8} (h : c.toNat ≤ 2) : ∃ t, c = triggerCode t := by
  have hcases : c = 0 ∨ c = 1 ∨ c = 2 := by bv_omega
  rcases hcases with rfl | rfl | rfl
  · exact ⟨.falling, rfl⟩
  · exact ⟨.rising, rfl⟩
  · exact ⟨.both, rfl⟩

theorem triggerCode_injective {t u : Trigger} (h : triggerCode t = triggerCode u) : t = u :=
  Option.some.inj (by rw [← triggerOfCode_triggerCode t, h, triggerOfCode_triggerCode])

section ExtiConfigure

variable {n p : BitVec 8} {s : State}

theorem runsRouter_extiConfigure (n p : BitVec 8) (t : Trigger) :
    RunsRouter (.extiConfigure n p (triggerCode t)) n.toNat p.toNat t State.complete := by
  intro s pos
  rw [exec, execExtiConfigure, mstate_goto, triggerOfCode_triggerCode]
  exact congrArg _ (afterRouter_routerStep_goto complete_goto _ _ _ _ _ _)

/-- Past its checks, EXTI_CONFIGURE stands at the Router's first access. -/
theorem exec_extiConfigure_fresh (t : Trigger) (hm : s.mstate = .fresh) (hn : n.toNat ≤ 15) (hp : p.toNat ≤ 8) :
    exec (.extiConfigure n p (triggerCode t)) s
      = exec (.extiConfigure n p (triggerCode t)) (s.goto (.router .setRead)) := by
  rw [runsRouter_extiConfigure n p t s, exec, execExtiConfigure, hm]
  simp [Nat.not_lt.mpr hn, Nat.not_lt.mpr hp]

theorem execRun_extiConfigure (t : Trigger) (hm : s.mstate = .fresh) (hn : n.toNat ≤ 15) (hp : p.toNat ≤ 8) :
    execRun (routerAccesses s) (.extiConfigure n p (triggerCode t)) s
      = .next (routed s n.toNat p.toNat t).complete := by
  have hrun := execRun_router (runsRouter_extiConfigure n p t) s 0
  rw [Nat.zero_add, execRun_zero, routerAccesses_eq, Nat.add_comm, execRun] at hrun
  rw [routerAccesses_eq, Nat.add_comm, execRun, exec_extiConfigure_fresh t hm hn hp, hrun]

end ExtiConfigure

/-- Settles O32: the checks pass, then the Router runs. -/
theorem extiConfigureResult : Obligations.ExtiConfigureResult := by
  intro n p c t s hm hn hp hc
  obtain rfl : c = triggerCode t := by
    rw [hc]
    cases t <;> rfl
  exact ⟨⟨_, (exec_extiConfigure_fresh t hm hn hp).trans (runsRouter_extiConfigure n p t s _)⟩,
    execRun_extiConfigure t hm hn hp⟩

/-! ## Selectors (R66, R94) -/

theorem getLsbD_selectorMask (i : Nat) : (0xF : Word).getLsbD i = decide (i < 4) := by
  rw [show (0xF : Word) = BitVec.ofNat 32 (2 ^ 4 - 1) from rfl, BitVec.getLsbD_ofNat, Nat.testBit_two_pow_sub_one]
  grind

/-- The nibble of line `l` in a selector register. -/
def selectorNibble (v : Word) (l : Nat) : Word := (v >>> selectorShift l) &&& 0xF

theorem getLsbD_selectorNibble (v : Word) (l i : Nat) :
    (selectorNibble v l).getLsbD i = (v.getLsbD (selectorShift l + i) && decide (i < 4)) := by
  rw [selectorNibble, BitVec.getLsbD_and, BitVec.getLsbD_ushiftRight, getLsbD_selectorMask]

theorem selected_eq (s : State) (l : Nat) :
    s.selected l = (selectorNibble (s.exticr[selectorReg l]?.getD 0) l).toNat := rfl

theorem getLsbD_portCode {p : Nat} (hp : p ≤ 8) {i : Nat} (hi : 4 ≤ i) : (BitVec.ofNat 32 p).getLsbD i = false := by
  have hfits : p < 2 ^ i :=
    calc p < 2 ^ 4 := by omega
      _ ≤ 2 ^ i := Nat.pow_le_pow_right (by decide) hi
  rw [BitVec.getLsbD_ofNat, Nat.testBit_lt_two_pow hfits, Bool.and_false]

/-- A port code inserted for line `n` is read back as its nibble, and leaves the nibbles of the other lines of the
register (R94). -/
theorem selectorNibble_insertField (v : Word) (n l : Nat) {p : Nat} (hp : p ≤ 8) :
    selectorNibble (insertField v 0xF (BitVec.ofNat 32 p) (selectorShift n)) l
      = if l % 4 = n % 4 then BitVec.ofNat 32 p else selectorNibble v l := by
  have hout {i : Nat} (hi : 4 ≤ i) := getLsbD_portCode hp hi
  refine BitVec.eq_of_getLsbD_eq fun i hi => ?_
  rw [getLsbD_selectorNibble, getLsbD_insertField, getLsbD_selectorMask]
  split
  next hsame =>
    have hsh : selectorShift l = selectorShift n := by rw [selectorShift, hsame, selectorShift]
    have hlt : selectorShift n < 13 := by unfold selectorShift; omega
    rw [hsh, Nat.add_sub_cancel_left]
    grind
  next hne =>
    have hapart : selectorShift l + 4 ≤ selectorShift n ∨ selectorShift n + 4 ≤ selectorShift l := by
      unfold selectorShift
      omega
    rw [getLsbD_selectorNibble]
    grind

/-- What STEP2 leaves in the nibbles of the register's other lines: nothing, when the register is stored whole. -/
theorem selectorNibble_selectorBase (s : State) {n l : Nat} (hreg : selectorReg n = selectorReg l) :
    (selectorNibble (s.selectorBase n) l).toNat = if s.cfg.exticrMode = .whole then 0 else s.selected l := by
  cases hmode : s.cfg.exticrMode with
  | merge => rw [State.selectorBase, hmode, hreg, selected_eq, if_neg nofun]
  | whole => simp [State.selectorBase, hmode, selectorNibble]

/-- STEP2 selects the port for its line; a whole store selects port A for the register's other lines (R94, R98). -/
theorem selected_routeSelector (s : State) {n p : Nat} (hn : n ≤ 15) (hp : p ≤ 8) (l : Nat) :
    (s.routeSelector n p).selected l
      = if l = n then p else if s.cfg.exticrMode = .whole ∧ l / 4 = n / 4 then 0 else s.selected l := by
  have hbound : selectorReg n < 4 := by unfold selectorReg; omega
  have hport : (BitVec.ofNat 32 p).toNat = p := by rw [BitVec.toNat_ofNat]; omega
  rw [selected_eq, State.routeSelector, Vector.getElem?_setIfInBounds, if_pos hbound]
  by_cases hreg : selectorReg n = selectorReg l
  · have hline : l % 4 = n % 4 ↔ l = n := by unfold selectorReg at hreg; omega
    rw [if_pos hreg, Option.getD_some, selectorNibble_insertField _ _ _ hp, apply_ite BitVec.toNat, hport,
      selectorNibble_selectorBase s hreg]
    simp only [hline, show l / 4 = n / 4 from hreg.symm, and_true]
  · have hne : l ≠ n := fun h => hreg (h ▸ rfl)
    rw [if_neg hreg, if_neg hne, if_neg fun h => hreg h.2.symm, selected_eq]

theorem selected_routed (s : State) {n p : Nat} (hn : n ≤ 15) (hp : p ≤ 8) (t : Trigger) (l : Nat) :
    (routed s n p t).selected l
      = if l = n then p else if s.cfg.exticrMode = .whole ∧ l / 4 = n / 4 then 0 else s.selected l := by
  rw [routed_eq]
  exact selected_routeSelector (s.routeTriggers n t) hn hp l

/-- Settles O33: the bits and the selectors of `routed`. -/
theorem triggerExclusivity : Obligations.TriggerExclusivity := by
  intro n p c s u hm hn hp hc hu
  obtain ⟨t, rfl⟩ := exists_eq_triggerCode hc
  cases (execRun_extiConfigure t hm hn hp).symm.trans hu
  have hrising : (routed s n.toNat p.toNat t).exti.rtsr = putBit s.exti.rtsr n.toNat (t != .falling) := rfl
  have hfalling : (routed s n.toNat p.toNat t).exti.ftsr = putBit s.exti.ftsr n.toNat (t != .rising) := rfl
  have hmask : (routed s n.toNat p.toNat t).exti.imr = putBit s.exti.imr n.toNat true := rfl
  have hselected (l : Nat) := selected_routed s hn hp t l
  have hline : n.toNat < 32 := by omega
  simp only [complete_fields, hrising, hfalling, hmask, getLsbD_putBit]
  refine ⟨?_, ?_, ?_, (hselected n.toNat).trans (if_pos rfl), ?_, fun l hl => ?_, fun l _ hl => ?_⟩
  · intro h
    obtain rfl : t = .rising := triggerCode_injective h
    simp [hline]
  · intro h
    obtain rfl : t = .falling := triggerCode_injective h
    simp [hline]
  · intro h
    obtain rfl : t = .both := triggerCode_injective h
    simp [hline]
  · simp [hline]
  · simp [hl]
  · exact (hselected l).trans (if_neg hl)

/-! ## EXTI_HANDLE (R97) -/

/-- Settles O34: the read of `<a1>` decides, and the one-hot write of `<a2>` clears its bit alone. -/
theorem extiHandleResult : Obligations.ExtiHandleResult := by
  intro n s hn
  have hpin : ¬ 15 < n.toNat := Nat.not_lt.mpr hn
  refine ⟨fun hm hidle => ?_, fun hm hpending => ?_, fun hm => ?_⟩
  · have hread : ¬ (s.regValue (.exti .pr)).getLsbD n.toNat = true := Bool.eq_false_iff.mp hidle
    rw [exec, execExtiHandle, hm]
    exact (if_neg hpin).trans (if_neg hread)
  · rw [exec, execExtiHandle, hm]
    exact (if_neg hpin).trans (if_pos hpending)
  · rw [exec, execExtiHandle, hm]
    rfl

end Sys2Proof.Machine
end

section
/-! SUPPORT. A step of PINS (41_exti_router.md R99): the pin it flips, and the pending bit it may set. -/

namespace Sys2Proof.Machine

/-- What a pin's change of level does to the ports. -/
def State.flipPin (s : State) (p n : Nat) : State :=
  s.setPort p { s.port p with pin := (s.port p).pin ^^^ (1#16 <<< n) }

/-- PINS flips the pin, and latches the edge when the line selects the port and detects it. -/
theorem changePin_eq (s : State) (p : Fin 9) (n : Fin 16) :
    s.changePin p n = { s.flipPin p n with exti := { s.exti with
      pr := if s.selected n = p.val ∧ s.detects n ((s.port p).pin.getLsbD n) = true then s.exti.pr ||| oneHot n
        else s.exti.pr } } := by
  simp only [State.changePin, Bool.and_eq_true, decide_eq_true_eq]
  split <;> rfl

theorem detects_iff (s : State) (n : Nat) (old : Bool) :
    s.detects n old = true ↔ (s.exti.imr.getLsbD n = true ∨ s.cfg.prLatchMasked = true)
      ∧ ((old = false ∧ s.exti.rtsr.getLsbD n = true) ∨ (old = true ∧ s.exti.ftsr.getLsbD n = true)) := by
  cases old <;> simp [State.detects, and_comm]

theorem port_flipPin (s : State) (p : Fin 9) (n q : Nat) :
    (s.flipPin p n).port q =
      { s.port q with pin := if q = p then (s.port q).pin ^^^ (1#16 <<< n) else (s.port q).pin } := by
  rw [State.flipPin, port_setPort s p _ q p.isLt]
  by_cases h : q = p
  · subst h
    simp
  · simp [h, Ne.symm h]

/-- A port keeps all but its pins. -/
theorem port_flipPin_eq (s : State) (p : Fin 9) (n q : Nat) :
    (s.flipPin p n).port q = { s.port q with pin := ((s.flipPin p n).port q).pin } := by
  rw [port_flipPin]

theorem getLsbD_pin_flipPin (s : State) (p : Fin 9) (n q m : Nat) (hm : m < 16) :
    ((s.flipPin p n).port q).pin.getLsbD m
      = ((s.port q).pin.getLsbD m != (decide (q = p) && decide (m = n))) := by
  rw [port_flipPin]
  by_cases h : q = p
  · simp only [h, if_true, BitVec.getLsbD_xor, BitVec.getLsbD_shiftLeft, BitVec.getLsbD_one]
    grind
  · simp [h]

/-- The one pending bit that a pin's change of level can set, and when it does. -/
theorem getLsbD_pr_changePin (s : State) (p : Fin 9) (n : Fin 16) (l : Nat) :
    (s.changePin p n).exti.pr.getLsbD l = true ↔ s.exti.pr.getLsbD l = true
      ∨ (l = n ∧ s.selected l = p ∧ s.detects l ((s.port p).pin.getLsbD n) = true) := by
  have hline : l = n.val → l < 32 := by omega
  rw [changePin_eq]
  split
  next hlatch =>
    simp only [BitVec.getLsbD_or, getLsbD_oneHot, Bool.or_eq_true, Bool.and_eq_true, decide_eq_true_eq]
    grind
  next hquiet => grind

/-- Settles O56: the step is `changePin`, whose one pending bit is set as R99 says. -/
theorem pinEdgeLatches : Obligations.PinEdgeLatches := by
  intro s p n rest hret hsched old
  have hstep : step s = .next (({ s with sched := rest } : State).changePin p n) := by
    rw [step_eq, hret, hsched]
    rfl
  refine ⟨_, hstep, ?_, fun q _ => ?_, fun q m _ hm => ?_, fun l => ?_⟩
  · rw [changePin_eq]
    rfl
  · rw [changePin_eq]
    exact port_flipPin_eq { s with sched := rest } p n q
  · rw [changePin_eq]
    exact getLsbD_pin_flipPin { s with sched := rest } p n q m hm
  · exact (getLsbD_pr_changePin { s with sched := rest } p n l).trans (by rw [detects_iff]; rfl)

end Sys2Proof.Machine
end

section
/-! SUPPORT. The digital I/O port driver (42_gpio_port.md R102 to R105): what its reads of a port's registers and its
masked field writes leave behind, and the micro-steps of its commands. -/

namespace Sys2Proof.Machine

/-! ## Ports -/

/-- A port register read, changed and written back: the read-modify-write of one field (20_memory.md R49). -/
def Port.update (x : Port) (r : PortReg) (f : Word → Word) : Port := x.put r (f (x.get r))

/-- The speed, pull and type fields are three updates (R102 `<s1>` to `<s6>`). -/
theorem plainFields_eq (x : Port) (n : Nat) (cfg : Word) :
    plainFields x n cfg =
      ((x.update .ospeedr (insertField · 0x3 (cfgSpeed cfg) (2 * n))).update .pupdr
        (insertField · 0x3 (cfgPull cfg) (2 * n))).update .otyper (insertField · 0x1 (cfgType cfg) n) := rfl

/-- The alternate-function field is an update of the register and the offset of the pin (R102 `<s7>`, `<s8>`, R106). -/
theorem alternateField_eq (x : Port) {n : Nat} (hn : n ≤ 15) (cfg : Word) :
    alternateField x n cfg = x.update (afrReg n) (insertField · 0xF (cfgAf cfg) (afrShift n)) := by
  by_cases hlow : n < 8
  · rw [alternateField, if_pos hlow, afrReg, if_pos (Nat.div_eq_of_lt hlow), afrShift, Nat.mod_eq_of_lt hlow]
    rfl
  · have hreg : ¬ n / 8 = 0 := by omega
    have hshift : n % 8 = n - 8 := by omega
    rw [alternateField, if_neg hlow, afrReg, if_neg hreg, afrShift, hshift]
    rfl

@[simp] theorem setPort_setPort (s : State) (p : Nat) (x y : Port) : (s.setPort p x).setPort p y = s.setPort p y := by
  rw [State.setPort, State.setPort, State.setPort, Vector.setIfInBounds_setIfInBounds]

@[simp] theorem setPort_port (s : State) (p : Nat) : s.setPort p (s.port p) = s := by
  have hgpio : s.gpio.setIfInBounds p (s.port p) = s.gpio := by
    simp only [State.port]
    ext
    grind
  rw [State.setPort, hgpio]

theorem port_setPort_self (s : State) {p : Nat} (x : Port) (hp : p ≤ 8) : (s.setPort p x).port p = x :=
  (port_setPort s p x p (Nat.lt_succ_of_le hp)).trans (if_pos rfl)

theorem setPort_regWrite (s : State) {p : Nat} (x : Port) (r : PortReg) (v : Word) (hp : p ≤ 8) :
    (s.setPort p x).regWrite (.gpio p r) v = s.setPort p (x.put r v) := by
  rw [State.regWrite, port_setPort_self s x hp, setPort_setPort]

/-- A read of a port register moves only the position (20_memory.md R50). -/
theorem readPort_eq (s : State) (p : Nat) (r : PortReg) (m : Word → MState) :
    readPort p r m s = s.goto (m ((s.port p).get r)) := rfl

/-! ## GPIO_READ_PIN (R103) -/

/-- `IDR` reads the pin levels (R32). -/
theorem getLsbD_regValue_idr (s : State) (p : Nat) {n : Nat} (hn : n ≤ 15) :
    (s.regValue (.gpio p .idr)).getLsbD n = (s.port p).pin.getLsbD n := by
  have hbit : n < 32 := by omega
  rw [State.regValue, Port.get, BitVec.getLsbD_setWidth, decide_eq_true hbit, Bool.true_and]

/-- Settles O37: the checks pass, and the one access reads `IDR`. -/
theorem gpioReadPinResult : Obligations.GpioReadPinResult := by
  intro n p s hm hn hp
  rw [exec, execGpioReadPin, hm, getLsbD_regValue_idr s p.toNat hn]
  exact (if_neg (Nat.not_lt.mpr hn)).trans (if_neg (Nat.not_lt.mpr hp))

/-! ## GPIO_WRITE_PIN and GPIO_TOGGLE_PIN (R104, R105) -/

section OdrUpdate

variable {n p : BitVec 8} {s : State}

/-- Past its checks, the command reads `ODR`. -/
theorem odrUpdate_fresh (f : Word → Word) (hm : s.mstate = .fresh) (hn : n.toNat ≤ 15) (hp : p.toNat ≤ 8) :
    odrUpdate n p f s = .next (s.goto (.odrWrite (s.port p.toNat).odr)) := by
  rw [odrUpdate, hm]
  exact (if_neg (Nat.not_lt.mpr hn)).trans (if_neg (Nat.not_lt.mpr hp))

/-- The write is computed from the value read, whatever `ODR` holds by then (70_reset_and_hazards.md R169). -/
theorem odrUpdate_write (f : Word → Word) {v : Word} (hm : s.mstate = .odrWrite v) :
    odrUpdate n p f s = .next (s.setPort p.toNat { s.port p.toNat with odr := f v }).complete := by
  rw [odrUpdate, hm]
  rfl

end OdrUpdate

/-- Settles O38: both commands are the read-modify-write of `ODR`. -/
theorem odrUpdateResult : Obligations.OdrUpdateResult := by
  intro n p b s hn hp
  refine ⟨fun hm => ⟨?_, ?_⟩, fun v hm => ⟨?_, ?_⟩⟩
  · exact odrUpdate_fresh _ hm hn hp
  · exact odrUpdate_fresh _ hm hn hp
  · exact odrUpdate_write _ hm
  · exact odrUpdate_write _ hm

/-! ## GPIO_CONFIGURE (R102) -/

/-- What follows the type field: the alternate-function field in mode AF, else the end of the command. -/
def afterType (m : PinMode) (s : State) : State := if m = .alternate then s.goto (.gpio .afRead) else s.complete

@[simp] theorem afterType_goto (m : PinMode) (s : State) (pos : MState) : afterType m (s.goto pos) = afterType m s := by
  unfold afterType
  split <;> simp

theorem gpioStep_typeWrite (n p : Nat) (m : PinMode) (cfg v : Word) (s : State) :
    gpioStep n p m cfg (.typeWrite v) s
      = afterType m (s.regWrite (.gpio p .otyper) (insertField v 0x1 (cfgType cfg) n)) := rfl

/-- The accesses of GPIO_CONFIGURE do not see the position of the running context. -/
theorem gpioStep_goto (n p : Nat) (m : PinMode) (cfg : Word) (pos : GpioPos) (s : State) (m' : MState) :
    gpioStep n p m cfg pos (s.goto m') = gpioStep n p m cfg pos s := by
  cases pos with
  | typeWrite v => rw [gpioStep_typeWrite, gpioStep_typeWrite, regWrite_goto, afterType_goto]
  | moderWrite _ | speedRead | speedWrite _ | pullRead | pullWrite _ | typeRead | afRead | afWrite _ =>
    simp [gpioStep, readPort]

section GpioConfigure

variable {n p c : BitVec 8} {m : PinMode} {cfg : Word} {s : State}

/-- Past its checks, GPIO_CONFIGURE makes the first access of its mode. -/
theorem exec_gpioConfigure_fresh (hmode : pinModeOfCode c = some m) (hm : s.mstate = .fresh) (hn : n.toNat ≤ 15)
    (hp : p.toNat ≤ 8) : exec (.gpioConfigure n p c cfg) s = .next (gpioFirst n.toNat p.toNat m s) := by
  rw [exec, execGpioConfigure, hm, hmode]
  exact (if_neg (Nat.not_lt.mpr hn)).trans (if_neg (Nat.not_lt.mpr hp))

/-- One access outside the Router. -/
theorem exec_gpioConfigure_goto (hmode : pinModeOfCode c = some m) (s : State) (pos : GpioPos) :
    exec (.gpioConfigure n p c cfg) (s.goto (.gpio pos)) = .next (gpioStep n.toNat p.toNat m cfg pos s) := by
  rw [exec, execGpioConfigure, mstate_goto, hmode]
  exact congrArg _ (gpioStep_goto _ _ _ _ _ _ _)

/-- The write of a port register, then on to `after`. -/
theorem execRun_writePort (hmode : pinModeOfCode c = some m) (hp : p.toNat ≤ 8) {pos : GpioPos} {r : PortReg}
    {v : Word} {after : State → State} {x : Port}
    (hwrite : gpioStep n.toNat p.toNat m cfg pos (s.setPort p.toNat x)
      = after ((s.setPort p.toNat x).regWrite (.gpio p.toNat r) v)) (k : Nat) :
    execRun (k + 1) (.gpioConfigure n p c cfg) ((s.setPort p.toNat x).goto (.gpio pos))
      = execRun k (.gpioConfigure n p c cfg) (after (s.setPort p.toNat (x.put r v))) := by
  rw [execRun_succ (exec_gpioConfigure_goto hmode _ _), hwrite, setPort_regWrite s x r v hp]

/-- A port register read and written back, the running context alone stepping in between, then on to `after`. -/
theorem execRun_updatePort (hmode : pinModeOfCode c = some m) (hp : p.toNat ≤ 8) {pos : GpioPos}
    {wr : Word → GpioPos} {r : PortReg} {f : Word → Word} {after : State → State}
    (hread : ∀ u, gpioStep n.toNat p.toNat m cfg pos u = readPort p.toNat r (fun v => .gpio (wr v)) u)
    (hwrite : ∀ u v, gpioStep n.toNat p.toNat m cfg (wr v) u = after (u.regWrite (.gpio p.toNat r) (f v)))
    (s : State) (x : Port) (k : Nat) :
    execRun (k + 2) (.gpioConfigure n p c cfg) ((s.setPort p.toNat x).goto (.gpio pos))
      = execRun k (.gpioConfigure n p c cfg) (after (s.setPort p.toNat (x.update r f))) := by
  rw [execRun_succ (exec_gpioConfigure_goto hmode _ _), hread, readPort_eq, port_setPort_self s x hp,
    execRun_writePort hmode hp (hwrite _ _)]
  rfl

/-- The speed, pull and type fields, in every mode. -/
theorem execRun_plainFields (hmode : pinModeOfCode c = some m) (hp : p.toNat ≤ 8) (s : State) (x : Port) (k : Nat) :
    execRun (k + 6) (.gpioConfigure n p c cfg) ((s.setPort p.toNat x).goto (.gpio .speedRead))
      = execRun k (.gpioConfigure n p c cfg) (afterType m (s.setPort p.toNat (plainFields x n.toNat cfg))) := by
  have hspeed := execRun_updatePort (n := n) (cfg := cfg) (after := (·.goto (.gpio .pullRead))) hmode hp
    (pos := .speedRead) (fun _ => rfl) (fun _ _ => rfl)
  have hpull := execRun_updatePort (n := n) (cfg := cfg) (after := (·.goto (.gpio .typeRead))) hmode hp
    (pos := .pullRead) (fun _ => rfl) (fun _ _ => rfl)
  have htype := execRun_updatePort (n := n) (cfg := cfg) (after := afterType m) hmode hp
    (pos := .typeRead) (fun _ => rfl) (fun u v => gpioStep_typeWrite _ _ m cfg v u)
  rw [hspeed, hpull, htype, plainFields_eq]

/-- The alternate-function field, and the end of the command. -/
theorem execRun_alternateField (hmode : pinModeOfCode c = some m) (hn : n.toNat ≤ 15) (hp : p.toNat ≤ 8) (s : State)
    (x : Port) :
    execRun 2 (.gpioConfigure n p c cfg) ((s.setPort p.toNat x).goto (.gpio .afRead))
      = .next (s.setPort p.toNat (alternateField x n.toNat cfg)).complete := by
  rw [alternateField_eq x hn]
  exact execRun_updatePort (after := State.complete) hmode hp (fun _ => rfl) (fun _ _ => rfl) s x 0

/-! ### Plain modes -/

/-- The modes that have a `MODER` code are the plain ones, which read `MODER` first. -/
theorem gpioFirst_of_moderCode {codes : ModeCodes} {code : BitVec 2} (hcode : moderCode codes m = some code)
    (n p : Nat) (s : State) : gpioFirst n p m s = s.goto (.gpio (.moderWrite (s.port p).moder)) := by
  cases m with
  | interrupt t => cases hcode
  | input | output | alternate | analog => rfl

/-- The code of the mode in the pin's field of `MODER` (R70, R102 `<a1>`, `<a2>`). -/
def moderField (x : Port) (n : Nat) (code : BitVec 2) : Port :=
  x.update .moder (insertField · 0x3 (code.setWidth 32) (2 * n))

/-- `MODER` is read and written first. -/
theorem execRun_moderField {code : BitVec 2} (hmode : pinModeOfCode c = some m)
    (hcode : moderCode s.cfg.modeCode m = some code) (hm : s.mstate = .fresh) (hn : n.toNat ≤ 15) (hp : p.toNat ≤ 8)
    (k : Nat) :
    execRun (k + 2) (.gpioConfigure n p c cfg) s = execRun k (.gpioConfigure n p c cfg)
      ((s.setPort p.toNat (moderField (s.port p.toNat) n.toNat code)).goto (.gpio .speedRead)) := by
  have hread : exec (.gpioConfigure n p c cfg) s = .next
      ((s.setPort p.toNat (s.port p.toNat)).goto (.gpio (.moderWrite (s.port p.toNat).moder))) := by
    rw [exec_gpioConfigure_fresh hmode hm hn hp, gpioFirst_of_moderCode hcode, setPort_port]
  rw [execRun_succ hread]
  refine execRun_writePort (r := .moder) (after := (·.goto (.gpio .speedRead))) hmode hp ?_ k
  rw [setPort_port, gpioStep, hcode]
  rfl

/-- What GPIO_CONFIGURE leaves in the port in a plain mode whose code is `code`. -/
def plainConfigured (x : Port) (n : Nat) (m : PinMode) (code : BitVec 2) (cfg : Word) : Port :=
  if m = .alternate then alternateField (plainFields (moderField x n code) n cfg) n cfg
  else plainFields (moderField x n code) n cfg

theorem execRun_gpioConfigure_plain {code : BitVec 2} (hmode : pinModeOfCode c = some m)
    (hcode : moderCode s.cfg.modeCode m = some code) (hm : s.mstate = .fresh) (hn : n.toNat ≤ 15) (hp : p.toNat ≤ 8) :
    execRun (if m = .alternate then 10 else 8) (.gpioConfigure n p c cfg) s
      = .next (s.setPort p.toNat (plainConfigured (s.port p.toNat) n.toNat m code cfg)).complete := by
  by_cases haf : m = .alternate
  · rw [if_pos haf, execRun_moderField hmode hcode hm hn hp 8, execRun_plainFields hmode hp _ _ 2, afterType,
      if_pos haf, execRun_alternateField hmode hn hp, plainConfigured, if_pos haf]
  · rw [if_neg haf, execRun_moderField hmode hcode hm hn hp 6, execRun_plainFields hmode hp _ _ 0, execRun_zero,
      afterType, if_neg haf, plainConfigured, if_neg haf]

/-! ### Interrupt modes -/

theorem runsRouter_gpioConfigure {t : Trigger} (hmode : pinModeOfCode c = some (.interrupt t)) :
    RunsRouter (.gpioConfigure n p c cfg) n.toNat p.toNat t (·.goto (.gpio .speedRead)) := by
  intro s pos
  rw [exec, execGpioConfigure, mstate_goto, hmode]
  exact congrArg _ (afterRouter_routerStep_goto (fun u m => goto_goto u m _) _ _ _ _ _ _)

/-- Past its checks, GPIO_CONFIGURE stands at the Router's first access. -/
theorem exec_gpioConfigure_interrupt {t : Trigger} (hmode : pinModeOfCode c = some (.interrupt t))
    (hm : s.mstate = .fresh) (hn : n.toNat ≤ 15) (hp : p.toNat ≤ 8) :
    exec (.gpioConfigure n p c cfg) s = exec (.gpioConfigure n p c cfg) (s.goto (.router .setRead)) := by
  rw [exec_gpioConfigure_fresh hmode hm hn hp, runsRouter_gpioConfigure hmode, gpioFirst]

/-- The Router changes no port. -/
theorem setPort_routed (s : State) (n p : Nat) (t : Trigger) :
    (routed s n p t).setPort p (s.port p) = routed s n p t := setPort_port (routed s n p t) p

theorem execRun_gpioConfigure_interrupt {t : Trigger} (hmode : pinModeOfCode c = some (.interrupt t))
    (hm : s.mstate = .fresh) (hn : n.toNat ≤ 15) (hp : p.toNat ≤ 8) :
    execRun (routerAccesses s + 6) (.gpioConfigure n p c cfg) s
      = .next ((routed s n.toNat p.toNat t).setPort p.toNat (plainFields (s.port p.toNat) n.toNat cfg)).complete := by
  calc execRun (routerAccesses s + 6) (.gpioConfigure n p c cfg) s
    _ = execRun (routerAccesses s + 6) (.gpioConfigure n p c cfg) (s.goto (.router .setRead)) := by
      rw [execRun, exec_gpioConfigure_interrupt hmode hm hn hp, execRun]
    _ = execRun 6 (.gpioConfigure n p c cfg)
        (((routed s n.toNat p.toNat t).setPort p.toNat (s.port p.toNat)).goto (.gpio .speedRead)) := by
      rw [Nat.add_comm, execRun_router (runsRouter_gpioConfigure hmode), setPort_routed]
    _ = .next ((routed s n.toNat p.toNat t).setPort p.toNat (plainFields (s.port p.toNat) n.toNat cfg)).complete :=
      execRun_plainFields hmode hp _ _ 0

end GpioConfigure

/-- Each of the codes 0 to 3 is a plain mode's, and 2 is that of AF (R76). -/
theorem exists_plain_pinMode {c : BitVec 8} (h : c.toNat ≤ 3) (codes : ModeCodes) :
    ∃ m, pinModeOfCode c = some m ∧ (m = .alternate ↔ c = 2)
      ∧ moderCode codes m = some (if c = 0 then codes.input else if c = 1 then codes.output
          else if c = 2 then codes.alternate else codes.analog) := by
  have hcases : c = 0 ∨ c = 1 ∨ c = 2 ∨ c = 3 := by bv_omega
  rcases hcases with rfl | rfl | rfl | rfl
  · exact ⟨.input, rfl, by decide, rfl⟩
  · exact ⟨.output, rfl, by decide, rfl⟩
  · exact ⟨.alternate, rfl, by decide, rfl⟩
  · exact ⟨.analog, rfl, by decide, rfl⟩

/-- Settles O35: `MODER`, then the speed, pull and type fields, then in mode AF the alternate-function field. -/
theorem gpioConfigurePlainResult : Obligations.GpioConfigurePlainResult := by
  intro n p c cfg s hm hn hp hc
  obtain ⟨m, hmode, haf, hcode⟩ := exists_plain_pinMode hc s.cfg.modeCode
  have hrun := execRun_gpioConfigure_plain (cfg := cfg) hmode hcode hm hn hp
  simp only [plainConfigured, haf] at hrun
  exact ⟨⟨_, exec_gpioConfigure_fresh hmode hm hn hp⟩, hrun⟩

/-- Settles O36: the Router, then the speed, pull and type fields. -/
theorem gpioConfigureInterruptResult : Obligations.GpioConfigureInterruptResult := by
  intro n p c t cfg s hm hn hp hc
  have hmode : pinModeOfCode c = some (.interrupt t) := by
    rw [hc]
    cases t <;> rfl
  exact ⟨⟨_, exec_gpioConfigure_fresh hmode hm hn hp⟩, execRun_gpioConfigure_interrupt hmode hm hn hp⟩

end Sys2Proof.Machine
end

section
/-! SUPPORT. One SPI device: its record within the state, its registers (43_spi_engine.md R129, R132), and the steps of
the peripheral itself (R130, R131, R133). -/

namespace Sys2Proof.Machine

open Host (Outcome)

/-! ## The record of a device -/

@[simp] theorem nSpi_setInst (s : State) (k : Nat) (x : Spi) : (s.setInst k x).nSpi = s.nSpi := by
  simp [State.nSpi, State.setInst]

@[simp] theorem setInst_setInst (s : State) (k : Nat) (x y : Spi) :
    (s.setInst k x).setInst k y = s.setInst k y := by
  simp [State.setInst]

@[simp] theorem setInst_inst (s : State) (k : Nat) : s.setInst k (s.inst k) = s := by
  have hspi : s.spi.set k (s.inst k) = s.spi := by
    simp only [State.inst]
    apply List.ext_getElem?
    grind
  rw [State.setInst, hspi]

theorem inst_setInst_self (s : State) {k : Nat} (x : Spi) (hk : k < s.nSpi) : (s.setInst k x).inst k = x :=
  inst_mapInst_self s k (fun _ => x) hk

/-- What a change of one device keeps of it, the change keeps of every device. -/
theorem inst_mapInst_keeps {α : Type} (g : Spi → α) (s : State) (k : Nat) {f : Spi → Spi} (hf : ∀ x, g (f x) = g x)
    (j : Nat) : g ((s.mapInst k f).inst j) = g (s.inst j) := by
  rcases inst_mapInst_cases s k f j with h | ⟨-, h⟩
  · rw [h]
  · rw [h, hf]

/-- A field of `SR` written (30_encoding.md R71). -/
theorem getLsbD_putBit_field (v : Word) (n : Fin 32) (b : Bool) (i : Nat) :
    (putBit v n b).getLsbD i = if i = n then b else v.getLsbD i := by
  have hbit : i = n ∧ i < 32 ↔ i = n := and_iff_left_of_imp fun h => h ▸ n.isLt
  rw [getLsbD_putBit, if_congr hbit rfl rfl]

/-- The frame a configured device takes of a value: its low byte alone in 8-bit mode (R34, R129, R131). -/
theorem setWidth_low_frameSize (p : FieldPos) (cr1 v : Word) :
    ((frameSize p cr1).low v).setWidth 16
      = if cr1.getLsbD p.dff then v.setWidth 16 else (v.setWidth 8).setWidth 16 := by
  unfold frameSize
  split <;> rw [FrameSize.low_eq_setWidth] <;> simp [FrameSize.bytes]

/-! ## `DR` and `SR` accesses (R129, R132) -/

theorem inst_regWrite_spi (s : State) {k : Nat} (r : SpiReg) (v : Word) (hk : k < s.nSpi) :
    (s.regWrite (.spi k r) v).inst k = (s.inst k).put s.cfg.pos r v :=
  inst_mapInst_self s k _ hk

theorem inst_afterRead_dr (s : State) {k : Nat} (hk : k < s.nSpi) :
    (s.afterRead (.spi k .dr)).inst k = (s.inst k).afterDrRead s.cfg.pos :=
  inst_mapInst_self s k _ hk

theorem inst_afterRead_sr (s : State) {k : Nat} (hk : k < s.nSpi) :
    (s.afterRead (.spi k .sr)).inst k = (s.inst k).afterSrRead s.cfg.pos :=
  inst_mapInst_self s k _ hk

theorem afterSrRead_of_due {p : FieldPos} {x : Spi} (h : x.sr.getLsbD p.ovr = true ∧ x.ovrseq = true) :
    x.afterSrRead p = { x with sr := putBit x.sr p.ovr false, ovrseq := false } := by
  rw [Spi.afterSrRead, h.1, h.2]
  rfl

theorem afterSrRead_of_not_due {p : FieldPos} {x : Spi} (h : ¬ (x.sr.getLsbD p.ovr = true ∧ x.ovrseq = true)) :
    x.afterSrRead p = x := if_neg (by simpa using h)

@[simp] theorem afterSrRead_fields (p : FieldPos) (x : Spi) :
    (x.afterSrRead p).cr1 = x.cr1 ∧ (x.afterSrRead p).cr2 = x.cr2 ∧ (x.afterSrRead p).rxbuf = x.rxbuf
      ∧ (x.afterSrRead p).txq = x.txq ∧ (x.afterSrRead p).tx = x.tx ∧ (x.afterSrRead p).rx = x.rx
      ∧ (x.afterSrRead p).blk = x.blk := by
  unfold Spi.afterSrRead
  split <;> exact ⟨rfl, rfl, rfl, rfl, rfl, rfl, rfl⟩

/-- Settles O52, bit by bit. -/
theorem dataRegisterWrite : Obligations.DataRegisterWrite := by
  intro s k v hk
  simp only [inst_regWrite_spi s _ _ hk, Spi.put]
  exact ⟨rfl, congrArg some (setWidth_low_frameSize _ _ _), getLsbD_putBit_field _ _ _⟩

/-- Settles O54: an `SR` read has an effect only where an overrun clear is due. -/
theorem dataAndStatusReads : Obligations.DataAndStatusReads := by
  intro s k hk
  simp only [inst_afterRead_dr s hk, inst_afterRead_sr s hk]
  refine ⟨rfl, rfl, rfl, getLsbD_putBit_field _ _ _, fun hdue => ?_, afterSrRead_of_not_due⟩
  rw [afterSrRead_of_due hdue]
  exact ⟨rfl, getLsbD_putBit_field _ _ _⟩

/-! ## Steps of the peripheral (R130, R131, R133) -/

theorem getLsbD_srFlags (p : FieldPos) (i : Nat) :
    (srFlags p).getLsbD i
      = decide (i = p.txe ∨ i = p.rxne ∨ i = p.bsy ∨ i = p.ovr ∨ i = p.crcerr ∨ i = p.modf) := by
  simp only [srFlags, BitVec.getLsbD_or, getLsbD_oneHot]
  grind

/-- The opaque bits are those that are no flag (log 18). -/
theorem getLsbD_opaqueBits (p : FieldPos) (sr v : Word) (i : Nat) :
    ((sr &&& srFlags p) ||| (v &&& ~~~(srFlags p))).getLsbD i
      = if i = p.txe ∨ i = p.rxne ∨ i = p.bsy ∨ i = p.ovr ∨ i = p.crcerr ∨ i = p.modf
        then sr.getLsbD i else v.getLsbD i := by
  have hv : 32 ≤ i → v.getLsbD i = false := BitVec.getLsbD_of_ge v i
  simp only [BitVec.getLsbD_or, BitVec.getLsbD_and, BitVec.getLsbD_not, getLsbD_srFlags]
  grind

theorem setWidth_low_arriving (p : FieldPos) (cr1 : Word) (v : Half) :
    ((frameSize p cr1).low (v.setWidth 32)).setWidth 16
      = if cr1.getLsbD p.dff then v else (v.setWidth 8).setWidth 16 := by
  have hfull : (v.setWidth 32).setWidth 16 = v := BitVec.setWidth_setWidth_of_le v (by decide)
  have hbyte : (v.setWidth 32).setWidth 8 = v.setWidth 8 := BitVec.setWidth_setWidth_of_le v (by decide)
  rw [setWidth_low_frameSize, hfull, hbyte]

/-- A frame arrives at an empty receive buffer (R131). -/
theorem react_arrive_empty {p : FieldPos} {x : Spi} (v : Half) (replace : Bool) (h : ¬ x.sr.getLsbD p.rxne = true) :
    x.react p (.arrive v replace)
      = { x with rxbuf := ((frameSize p x.cr1).low (v.setWidth 32)).setWidth 16, sr := putBit x.sr p.rxne true } :=
  if_neg h

/-- A frame arrives at a full receive buffer: an overrun (R131). -/
theorem react_arrive_full {p : FieldPos} {x : Spi} (v : Half) (replace : Bool) (h : x.sr.getLsbD p.rxne = true) :
    x.react p (.arrive v replace)
      = { x with
          sr := putBit x.sr p.ovr true,
          rxbuf := if replace then ((frameSize p x.cr1).low (v.setWidth 32)).setWidth 16 else x.rxbuf } :=
  if_pos h

/-- The shift stage takes the queued frame (R130). -/
theorem react_takeFrame {p : FieldPos} {x : Spi} {f : Half} (h : x.txq = some f) :
    x.react p .takeFrame
      = { x with txout := x.txout ++ [f], txq := none, sr := putBit (putBit x.sr p.txe true) p.bsy true } := by
  rw [Spi.react, h]

/-- A scheduled step of the peripheral. -/
theorem step_spiEvent {s : State} {k : Nat} {e : SpiEvent} {rest : List Move} (hk : k < s.nSpi)
    (hreturn : s.mustReturn = false) (hsched : s.sched = .spi k e :: rest) :
    step s = .next (State.setInst { s with sched := rest } k ((s.inst k).react s.cfg.pos e)) := by
  rw [step_eq, hreturn, hsched]
  exact congrArg Outcome.next (if_pos hk)

/-- Settles O53, event by event. -/
theorem spiDeviceSteps : Obligations.SpiDeviceSteps := by
  intro s k e rest hk hreturn hsched
  refine ⟨_, step_spiEvent hk hreturn hsched, ?_⟩
  cases e with
  | takeFrame =>
    refine ⟨fun hq => ?_, fun f hq => ?_⟩
    · rw [Spi.react, hq]
    · rw [react_takeFrame hq]
      refine ⟨rfl, fun i => ?_⟩
      simp only [getLsbD_putBit_field]
      grind
  | arrive v replace =>
    have hframe := setWidth_low_arriving s.cfg.pos (s.inst k).cr1 v
    by_cases hfull : (s.inst k).sr.getLsbD s.cfg.pos.rxne = true
    · rw [react_arrive_full v replace hfull, hframe]
      exact ⟨rfl, fun hempty => absurd (hfull.symm.trans hempty) (by decide),
        fun _ => ⟨rfl, getLsbD_putBit_field _ _ _⟩⟩
    · rw [react_arrive_empty v replace hfull, hframe]
      exact ⟨rfl, fun _ => ⟨rfl, getLsbD_putBit_field _ _ _⟩, fun h => absurd h hfull⟩
  | busy b | modeFault | crcError => exact ⟨rfl, getLsbD_putBit_field _ _ _⟩
  | opaqueBits v => exact ⟨rfl, getLsbD_opaqueBits _ _ _⟩

end Sys2Proof.Machine
end

section
/-! SUPPORT. The SPI engine's foreground commands without interference: SPI_INIT, the starts and the closes
(43_spi_engine.md R107, R108, R111, R112, R122, R125). -/

namespace Sys2Proof.Machine

open Host (Outcome)

/-! ## Updates of one device in a row -/

theorem goto_of_mstate {s : State} {m : MState} (h : s.mstate = m) : s.goto m = s := by
  subst h
  exact setTop_top s

theorem setInst_mapInst (s : State) {k : Nat} (x : Spi) (f : Spi → Spi) (hk : k < s.nSpi) :
    (s.setInst k x).mapInst k f = s.setInst k (f x) := by
  rw [State.mapInst, inst_setInst_self s x hk, setInst_setInst]

theorem mapInst_mapInst (s : State) {k : Nat} (f g : Spi → Spi) (hk : k < s.nSpi) :
    (s.mapInst k f).mapInst k g = s.mapInst k (fun x => g (f x)) :=
  setInst_mapInst s _ g hk

theorem setInst_regWrite (s : State) {k : Nat} (x : Spi) (r : SpiReg) (v : Word) (hk : k < s.nSpi) :
    (s.setInst k x).regWrite (.spi k r) v = s.setInst k (x.put s.cfg.pos r v) :=
  setInst_mapInst s x (fun y => y.put s.cfg.pos r v) hk

@[simp] theorem setTc_setTc (x : Spi) (d : Direction) (t u : TransferCtx) : (x.setTc d t).setTc d u = x.setTc d u := by
  cases d <;> rfl

@[simp] theorem cr1_setTc (x : Spi) (d : Direction) (t : TransferCtx) : (x.setTc d t).cr1 = x.cr1 := by
  cases d <;> rfl

@[simp] theorem cr2_setTc (x : Spi) (d : Direction) (t : TransferCtx) : (x.setTc d t).cr2 = x.cr2 := by
  cases d <;> rfl

theorem setTc_withCr2 (x : Spi) (d : Direction) (t : TransferCtx) (v : Word) :
    ({ x with cr2 := v } : Spi).setTc d t = { x.setTc d t with cr2 := v } := by
  cases d <;> rfl

/-- The three field writes that record a transfer context (10_state.md R39). -/
theorem record_eq (s : State) {k : Nat} (d : Direction) (buf len : Word) (st : TransferState) (hk : k < s.nSpi) :
    ((s.setBuf k d buf).setLen k d len).setSt k d st = s.setInst k ((s.inst k).setTc d ⟨buf, len, st⟩) := by
  have hbuf : s.setBuf k d buf = s.setInst k ((s.inst k).setTc d { (s.inst k).tc d with buf := buf }) := rfl
  rw [hbuf, State.setLen, setInst_mapInst s _ _ hk, State.setSt, setInst_mapInst s _ _ hk]
  simp

/-! ## A transfer in flight (R125) -/

theorem Spi.inFlight_iff (x : Spi) :
    x.inFlight = true ↔ (x.tc .tx).st = .busy ∨ (x.tc .rx).st = .busy ∨ x.blk = true := by
  simp [Spi.inFlight, Spi.tc, or_assoc]

theorem not_inFlight {s : State} {k : Nat} (htx : (s.tc k .tx).st = .ready) (hrx : (s.tc k .rx).st = .ready)
    (hblk : (s.inst k).blk = false) : ¬ (s.inst k).inFlight = true := by
  rw [Spi.inFlight_iff]
  simp_all [State.tc]

section FirstChecks

variable {d : Direction} {k : BitVec 8} {buf len : Word} {s : State}

theorem exec_blockingCommand (d : Direction) (k : BitVec 8) (buf len : Word) (s : State) :
    exec (blockingCommand d k buf len) s = blockingTransfer d k buf len s := by
  cases d <;> rfl

theorem exec_startCommand (d : Direction) (k : BitVec 8) (buf len : Word) (s : State) :
    exec (startCommand d k buf len) s = startTransfer d k buf len s := by
  cases d <;> rfl

theorem exec_closeCommand (d : Direction) (k : BitVec 8) (s : State) :
    exec (closeCommand d k) s = closeTransfer d k s := by
  cases d <;> rfl

/-- The check of `<a0>` of a blocking transfer (R109, log 25). -/
theorem exec_blockingCommand_fresh (hm : s.mstate = .fresh) (hk : k.toNat < s.nSpi) :
    exec (blockingCommand d k buf len) s
      = if (s.inst k.toNat).inFlight then .next (s.raise .mixedMode)
        else .next ((s.setBlk k.toNat true).goto (.blocking (blockNext buf len))) := by
  rw [exec_blockingCommand, blockingTransfer, hm]
  exact if_neg (Nat.not_le.mpr hk)

/-- The check of `<a0>` of SPI_INIT (R108). -/
theorem exec_spiInit_fresh {dff errie : Bool} {cr1 : Word} (hm : s.mstate = .fresh) (hk : k.toNat < s.nSpi) :
    exec (.spiInit k dff errie cr1) s
      = if (s.inst k.toNat).inFlight then .next (s.raise .initBusy) else .next (s.goto (.init .cr1Write)) := by
  rw [exec, execSpiInit, hm]
  exact if_neg (Nat.not_le.mpr hk)

/-- A start faults on a device that a blocking transfer holds (R125). -/
theorem exec_startCommand_blocked (hm : s.mstate = .fresh) (hk : k.toNat < s.nSpi)
    (hblk : (s.inst k.toNat).blk = true) : exec (startCommand d k buf len) s = .next (s.raise .mixedMode) := by
  rw [exec_startCommand, startTransfer, hm]
  exact (if_neg (Nat.not_le.mpr hk)).trans (if_pos hblk)

end FirstChecks

/-- Settles O26, check by check. -/
theorem mixedModeFaults : Obligations.MixedModeFaults := by
  intro s k buf len hm hk
  refine ⟨fun hbusy => ⟨fun d => ?_, fun dff errie cr1 => ?_⟩, fun hblk d => exec_startCommand_blocked hm hk hblk⟩
  · rw [exec_blockingCommand_fresh hm hk, if_pos ((Spi.inFlight_iff _).mpr hbusy)]
  · rw [exec_spiInit_fresh hm hk, if_pos ((Spi.inFlight_iff _).mpr hbusy)]

/-! ## SPI_INIT (R108) -/

/-- A word with one field and nothing else (30_encoding.md R71). -/
theorem bitWord_shiftLeft (b : Bool) (n : Nat) : bitWord b <<< n = putBit 0 n b := by
  cases b <;> simp [bitWord, putBit, oneHot]

theorem exec_spiInit_cr1Write (k : BitVec 8) (dff errie : Bool) (cr1 : Word) (s : State) :
    exec (.spiInit k dff errie cr1) (s.goto (.init .cr1Write))
      = .next ((s.setInst k.toNat { s.inst k.toNat with cr1 := putBit cr1 s.cfg.pos.dff dff }).goto
          (.init .cr2Write)) := by
  rw [exec, execSpiInit, mstate_goto]
  simp only [regWrite_goto, goto_goto]
  rfl

theorem exec_spiInit_cr2Write {k : BitVec 8} (dff errie : Bool) (cr1 : Word) {s : State} (x : Spi)
    (hk : k.toNat < s.nSpi) :
    exec (.spiInit k dff errie cr1) ((s.setInst k.toNat x).goto (.init .cr2Write))
      = .next (s.setInst k.toNat { x with cr2 := putBit 0 s.cfg.pos.errie errie }).complete := by
  rw [exec, execSpiInit, mstate_goto, bitWord_shiftLeft]
  simp only [regWrite_goto, complete_goto, setInst_regWrite s x _ _ hk]
  rfl

/-- Settles O39: the check, and the two writes. -/
theorem spiInitResult : Obligations.SpiInitResult := by
  intro k dff errie cr1 s hm hk htx hrx hblk
  have hfresh : exec (.spiInit k dff errie cr1) s = .next (s.goto (.init .cr1Write)) :=
    (exec_spiInit_fresh hm hk).trans (if_neg (not_inFlight htx hrx hblk))
  refine ⟨⟨_, hfresh⟩, ?_⟩
  rw [execRun_succ hfresh, execRun_succ (exec_spiInit_cr1Write ..),
    execRun_succ (exec_spiInit_cr2Write _ _ _ _ hk), execRun_zero]

/-! ## Starts (R111, R112) -/

section Starts

variable {d : Direction} {k : BitVec 8} {buf len : Word} {s : State}

theorem exec_startCommand_fresh (hm : s.mstate = .fresh) (hk : k.toNat < s.nSpi) (hblk : (s.inst k.toNat).blk = false) :
    exec (startCommand d k buf len) s
      = match (s.tc k.toNat d).st with
        | .busy => .next (s.result (.state .busy)).complete
        | .ready =>
          if s.cfg.startAtomic
          then .next ((((s.setBuf k.toNat d buf).setLen k.toNat d len).setSt k.toNat d .busy).goto (.start .cr2Read))
          else .next (s.goto (.start .bufWrite)) := by
  rw [exec_startCommand, startTransfer, hm]
  exact (if_neg (Nat.not_le.mpr hk)).trans (if_neg (by simp [hblk]))

theorem startStep_goto (k : Nat) (d : Direction) (buf len : Word) (pos : StartPos) (s : State) (m : MState) :
    startStep k d buf len pos (s.goto m) = startStep k d buf len pos s := by
  cases pos <;> simp [startStep, readSpi]

theorem exec_startCommand_goto (d : Direction) (k : BitVec 8) (buf len : Word) (pos : StartPos) (s : State) :
    exec (startCommand d k buf len) (s.goto (.start pos)) = .next (startStep k.toNat d buf len pos s) := by
  rw [exec_startCommand, startTransfer, mstate_goto]
  exact congrArg _ (startStep_goto _ _ _ _ _ _ _)

/-- The three writes of the transfer context (R111 `<t2>` to `<t4>`). -/
theorem execRun_start_record (d : Direction) (k : BitVec 8) (buf len : Word) (s : State) (n : Nat) :
    execRun (n + 3) (startCommand d k buf len) (s.goto (.start .bufWrite))
      = execRun n (startCommand d k buf len)
          ((((s.setBuf k.toNat d buf).setLen k.toNat d len).setSt k.toNat d .busy).goto (.start .cr2Read)) := by
  rw [execRun_succ (exec_startCommand_goto ..), startStep, execRun_succ (exec_startCommand_goto ..), startStep,
    execRun_succ (exec_startCommand_goto ..), startStep]

/-- The interrupt enable (R111 `<t5>`, `<t6>`), which ends the command. -/
theorem execRun_start_enable (d : Direction) (k : BitVec 8) (buf len : Word) (s : State) (x : Spi)
    (hk : k.toNat < s.nSpi) :
    execRun 2 (startCommand d k buf len) ((s.setInst k.toNat x).goto (.start .cr2Read))
      = .next ((s.setInst k.toNat { x with cr2 := putBit x.cr2 (enablePos s.cfg.pos d) true }).result
          (.state .ready)).complete := by
  have hread : startStep k.toNat d buf len .cr2Read (s.setInst k.toNat x)
      = (s.setInst k.toNat x).goto (.start (.cr2Write x.cr2)) := by
    rw [startStep, readSpi, State.regValue, inst_setInst_self s x hk]
    rfl
  rw [execRun_succ (exec_startCommand_goto ..), hread, execRun_succ (exec_startCommand_goto ..), startStep,
    setInst_regWrite s x _ _ hk]
  rfl

/-- The micro-steps of a start up to the read of `CR2`, fused or not (log 26). -/
theorem execRun_start_fresh (hm : s.mstate = .fresh) (hk : k.toNat < s.nSpi) (hblk : (s.inst k.toNat).blk = false)
    (hready : (s.tc k.toNat d).st = .ready) :
    (∃ u, exec (startCommand d k buf len) s = .next u)
      ∧ execRun (if s.cfg.startAtomic then 3 else 6) (startCommand d k buf len) s
        = execRun 2 (startCommand d k buf len)
            ((s.setInst k.toNat ((s.inst k.toNat).setTc d ⟨buf, len, .busy⟩)).goto (.start .cr2Read)) := by
  have hfresh := exec_startCommand_fresh (d := d) (buf := buf) (len := len) hm hk hblk
  rw [hready] at hfresh
  rw [← record_eq s d buf len .busy hk]
  cases hatomic : s.cfg.startAtomic with
  | true =>
    have hexec := hfresh.trans (if_pos hatomic)
    exact ⟨⟨_, hexec⟩, execRun_succ hexec⟩
  | false =>
    have hexec := hfresh.trans (if_neg (by simp [hatomic]))
    exact ⟨⟨_, hexec⟩, (execRun_succ hexec).trans (execRun_start_record ..)⟩

end Starts

/-- Settles O43: the read of the state is the start's only access. -/
theorem rejectedStartChangesNothing : Obligations.RejectedStartChangesNothing := by
  intro d k buf len s hm hk hblk hbusy
  rw [exec_startCommand_fresh hm hk hblk, hbusy]
  rfl

/-- Settles O42: the transfer context, then the interrupt enable. -/
theorem startResult : Obligations.StartResult := by
  intro d k buf len s hm hk hblk hready
  obtain ⟨hexec, hrun⟩ := execRun_start_fresh (buf := buf) (len := len) hm hk hblk hready
  refine ⟨hexec, ?_⟩
  rw [hrun, execRun_start_enable d k buf len s _ hk, cr2_setTc]

/-! ## `CLOSE` (R107), for every command that runs it -/

/-- The command goes on in `CLOSE`, or after it. -/
def afterClose (wrap : ClosePos → MState) (after : State → State) (r : Option ClosePos × State) : State :=
  match r.1 with
  | some pos => r.2.goto (wrap pos)
  | none => after r.2

/-- At a position of `CLOSE`, command `i` makes that access of CLOSE(k, d), and goes on to `after` at its end. -/
def RunsClose (i : Instr) (k : Nat) (d : Direction) (wrap : ClosePos → MState) (after : State → State) : Prop :=
  ∀ (s : State) (pos : ClosePos), exec i (s.goto (wrap pos)) = .next (afterClose wrap after (closeStep k d pos s))

/-- The accesses of `CLOSE` do not see the position of the running context. -/
theorem afterClose_closeStep_goto {wrap : ClosePos → MState} {after : State → State}
    (hafter : ∀ u m, after (State.goto u m) = after u) (k : Nat) (d : Direction) (pos : ClosePos) (s : State)
    (m : MState) :
    afterClose wrap after (closeStep k d pos (s.goto m)) = afterClose wrap after (closeStep k d pos s) := by
  cases pos <;> simp [closeStep, afterClose, hafter]

section RunsClose

variable {i : Instr} {k : Nat} {d : Direction} {wrap : ClosePos → MState} {after : State → State}

/-- One access inside `CLOSE`. -/
theorem execRun_close_succ (hi : RunsClose i k d wrap after) {s u : State} {pos pos' : ClosePos}
    (h : closeStep k d pos s = (some pos', u)) (n : Nat) :
    execRun (n + 1) i (s.goto (wrap pos)) = execRun n i (u.goto (wrap pos')) :=
  execRun_succ (by rw [hi, h]; rfl)

/-- The last access of `CLOSE`. -/
theorem execRun_close_last (hi : RunsClose i k d wrap after) {s u : State} {pos : ClosePos}
    (h : closeStep k d pos s = (none, u)) (n : Nat) :
    execRun (n + 1) i (s.goto (wrap pos)) = execRun n i (after u) :=
  execRun_succ (by rw [hi, h]; rfl)

/-- What `CLOSE` leaves behind is its write of `CR2` and the cleared transfer context. -/
theorem closed_eq (s : State) (hk : k < s.nSpi) :
    (((s.regWrite (.spi k .cr2) (putBit (s.inst k).cr2 (enablePos s.cfg.pos d) false)).setBuf k d 0).setLen k d 0).setSt
      k d .ready = closed s k d := by
  rw [record_eq _ d 0 0 .ready (by simpa [State.regWrite] using hk), inst_regWrite_spi s _ _ hk, State.regWrite,
    State.mapInst, setInst_setInst, Spi.put, setTc_withCr2]
  rfl

/-- `CLOSE` without interference, then what its command does next. -/
theorem execRun_close (hi : RunsClose i k d wrap after) (s : State) (hk : k < s.nSpi) (n : Nat) :
    execRun (n + 5) i (s.goto (wrap .cr2Read)) = execRun n i (after (closed s k d)) := by
  rw [execRun_close_succ hi rfl, execRun_close_succ hi rfl, execRun_close_succ hi rfl, execRun_close_succ hi rfl,
    execRun_close_last hi rfl, ← closed_eq s hk]
  rfl

end RunsClose

/-! ## The close commands (R122) -/

theorem unsafeClose_iff (s : State) (q : Nat) :
    s.unsafeClose q = true ↔ (s.enabled q = true ∧ s.active q = false ∧ s.prio q < s.execPri)
      ∨ (s.active q = true ∧ s.stack.kind ≠ .isr q) := by
  simp [State.unsafeClose, and_assoc]

theorem exec_closeCommand_fresh {d : Direction} {k : BitVec 8} {s : State} (hm : s.mstate = .fresh)
    (hk : k.toNat < s.nSpi) :
    exec (closeCommand d k) s
      = if s.unsafeClose (spiSource s.cfg k.toNat) then .next (s.raise .unsafeClose)
        else .next (s.goto (.close .cr2Read)) := by
  rw [exec_closeCommand, closeTransfer, hm]
  exact if_neg (Nat.not_le.mpr hk)

theorem closeTransfer_close {d : Direction} {k : BitVec 8} {s : State} {pos : ClosePos} (hm : s.mstate = .close pos) :
    closeTransfer d k s = .next (afterClose .close State.complete (closeStep k.toNat d pos s)) := by
  simp only [closeTransfer, hm, afterClose]
  rcases closeStep k.toNat d pos s with ⟨_ | q, t⟩ <;> rfl

theorem runsClose_closeCommand (d : Direction) (k : BitVec 8) :
    RunsClose (closeCommand d k) k.toNat d .close State.complete := by
  intro s pos
  rw [exec_closeCommand, closeTransfer_close (mstate_goto s _)]
  exact congrArg _ (afterClose_closeStep_goto complete_goto _ _ _ s _)

/-- Settles O44: the guard decides, and past it the command is `CLOSE`. -/
theorem closeResult : Obligations.CloseResult := by
  intro d k s hm hk
  have hfresh := exec_closeCommand_fresh (d := d) hm hk
  refine ⟨fun hsafe => ?_, fun hbad => hfresh.trans (if_pos ((unsafeClose_iff s _).mpr hbad))⟩
  have hexec : exec (closeCommand d k) s = .next (s.goto (.close .cr2Read)) :=
    hfresh.trans (if_neg fun h => hsafe ((unsafeClose_iff s _).mp h))
  exact ⟨⟨_, hexec⟩, (execRun_succ hexec).trans (execRun_close (runsClose_closeCommand d k) s hk 0)⟩

end Sys2Proof.Machine
end

section
/-! SUPPORT. The blocking transfers without interference (43_spi_engine.md R109, R110): their micro-steps, and the
frames a transmit sends when SPIDEV takes each at once (R130). -/

namespace Sys2Proof.Machine

open Host (Outcome)

/-! ## Frames -/

/-- Whether a frame is in RAM depends on the parameters alone (20_memory.md R53). -/
theorem ramOk_congr {s t : State} (h : t.cfg = s.cfg) (a : Word) (f : FrameSize) : t.ramOk a f = s.ramOk a f := by
  rw [State.ramOk, State.ramOk, h]

theorem frameSizeOf_congr {s t : State} {k : Nat} (hcfg : t.cfg = s.cfg) (hcr1 : (t.inst k).cr1 = (s.inst k).cr1) :
    t.frameSizeOf k = s.frameSizeOf k := by
  rw [State.frameSizeOf, State.frameSizeOf, hcfg, hcr1]

theorem FrameSize.bytes_pos (f : FrameSize) : 0 < f.bytes := by
  cases f <;> decide

/-- A frame read from memory has no bits above its own (R55). -/
theorem FrameSize.low_readFrame (f : FrameSize) (m : Memory) (a : Word) :
    f.low (m.readFrame a f) = m.readFrame a f := by
  rw [FrameSize.low_eq_setWidth]
  refine BitVec.eq_of_getLsbD_eq fun i hi => ?_
  cases f <;> simp only [FrameSize.bytes, Memory.readFrame, BitVec.getLsbD_setWidth, BitVec.getLsbD_or,
    BitVec.getLsbD_shiftLeft] <;> grind

/-! ### The buffer of `n` frames (R126) -/

theorem frameAddress_succ (b : Word) (f : FrameSize) (j : Nat) :
    b + BitVec.ofNat 32 f.bytes + BitVec.ofNat 32 (j * f.bytes) = b + BitVec.ofNat 32 ((j + 1) * f.bytes) := by
  rw [BitVec.add_assoc, ← BitVec.ofNat_add, Nat.add_comm, Nat.succ_mul]

theorem bufferLength_sub_frame (f : FrameSize) (n : Nat) :
    BitVec.ofNat 32 ((n + 1) * f.bytes) - BitVec.ofNat 32 f.bytes = BitVec.ofNat 32 (n * f.bytes) := by
  rw [Nat.succ_mul, BitVec.ofNat_add, BitVec.add_sub_cancel]

theorem toNat_bufferLength {f : FrameSize} {n : Nat} (h : n * f.bytes < 2 ^ 32) :
    (BitVec.ofNat 32 (n * f.bytes)).toNat = n * f.bytes :=
  Nat.mod_eq_of_lt h

theorem bufferLength_ne_zero {f : FrameSize} {n : Nat} (hn : 1 ≤ n) (h : n * f.bytes < 2 ^ 32) :
    BitVec.ofNat 32 (n * f.bytes) ≠ 0 := by
  intro h0
  have hlen := toNat_bufferLength h
  rw [h0] at hlen
  exact absurd hlen (Nat.ne_of_lt (Nat.mul_pos hn f.bytes_pos))

/-! ## The two accesses that move a frame, for every command that makes them -/

/-- From position `first`, command `i` moves a frame at `b` and goes on at `on`: from memory to `DR` (R109, R114), or from
`DR` to memory (R110, R116). Between the accesses it carries the frame. -/
structure MovesFrame (i : Instr) (k : Nat) (d : Direction) (b : Word) (f : FrameSize) (first : MState)
    (second : Word → MState) (on : MState) : Prop where
  load : d = .tx → ∀ s : State, s.ramOk b f = true →
    exec i (s.goto first) = .next (s.goto (second (s.mem.readFrame b f)))
  send : d = .tx → ∀ (s : State) (x : Word),
    exec i (s.goto (second x)) = .next ((s.regWrite (.spi k .dr) x).goto on)
  receive : d = .rx → ∀ s : State,
    exec i (s.goto first) = .next ((s.afterRead (.spi k .dr)).goto (second (s.regValue (.spi k .dr))))
  store : d = .rx → ∀ (s : State) (x : Word), s.ramOk b f = true →
    exec i (s.goto (second x)) = .next ((s.storeFrame b f (f.low x)).goto on)

theorem execRun_movesFrame {i : Instr} {k : Nat} {d : Direction} {b : Word} {f : FrameSize} {first on : MState}
    {second : Word → MState} (hi : MovesFrame i k d b f first second on) {s : State} (hok : s.ramOk b f = true)
    (n : Nat) : execRun (n + 2) i (s.goto first) = execRun n i ((frameMoved s k d b f).goto on) := by
  cases d with
  | tx =>
    rw [execRun_succ (hi.load rfl s hok), execRun_succ (hi.send rfl s _)]
    rfl
  | rx =>
    have hread := (ramOk_congr (afterRead_fields s (.spi k .dr)).1 b f).trans hok
    rw [execRun_succ (hi.receive rfl s), execRun_succ (hi.store rfl _ _ hread)]
    rfl

/-! ## Micro-steps of a blocking transfer (R109, R110) -/

section Blocking

variable {d : Direction} {k : BitVec 8} {buf len b l : Word} {f : FrameSize} {s : State}

theorem exec_blocking {pos : BlockPos} (hm : s.mstate = .blocking pos) :
    exec (blockingCommand d k buf len) s = .next (blockStep k.toNat d pos s) := by
  rw [exec_blockingCommand, blockingTransfer, hm]

/-- A poll reads `SR` once (00_scope.md R9). -/
theorem exec_poll (hm : s.mstate = .blocking (.poll b l)) :
    exec (blockingCommand d k buf len) s
      = .next (if (s.inst k.toNat).sr.getLsbD (pollPos s.cfg.pos d)
          then (s.afterRead (.spi k.toNat .sr)).goto (.blocking (.frame b l))
          else s.afterRead (.spi k.toNat .sr)) :=
  exec_blocking hm

/-- The read of `CR1` before a frame fixes its size, and checks that the buffer still holds one (R115, R124). -/
theorem exec_frameCheck (hm : s.mstate = .blocking (.frame b l)) :
    exec (blockingCommand d k buf len) s
      = .next (if l.toNat < (s.frameSizeOf k.toNat).bytes then s.raise .lenUnderflow
          else s.goto (.blocking (.first b l (s.frameSizeOf k.toNat)))) :=
  exec_blocking hm

/-- The wait after the last frame reads `SR` once a step. -/
theorem exec_idle (hm : s.mstate = .blocking .idle) :
    exec (blockingCommand d k buf len) s
      = .next (if (s.inst k.toNat).sr.getLsbD s.cfg.pos.bsy then s.afterRead (.spi k.toNat .sr)
          else ((s.afterRead (.spi k.toNat .sr)).setBlk k.toNat false).complete) :=
  exec_blocking hm

theorem movesFrame_blocking :
    MovesFrame (blockingCommand d k buf len) k.toNat d b f (.blocking (.first b l f))
      (fun x => .blocking (.second b l f x))
      (.blocking (blockNext (b + BitVec.ofNat 32 f.bytes) (l - BitVec.ofNat 32 f.bytes))) where
  load := by
    rintro rfl s hok
    rw [exec_blocking (mstate_goto ..)]
    simp [blockStep, hok]
  send := by
    rintro rfl s x
    rw [exec_blocking (mstate_goto ..)]
    simp [blockStep]
  receive := by
    rintro rfl s
    rw [exec_blocking (mstate_goto ..)]
    simp [blockStep, readSpi]
  store := by
    rintro rfl s x hok
    rw [exec_blocking (mstate_goto ..)]
    simp [blockStep, hok]

@[simp] theorem frameSizeOf_afterRead_sr (s : State) (k : Nat) :
    (s.afterRead (.spi k .sr)).frameSizeOf k = s.frameSizeOf k :=
  frameSizeOf_congr rfl (inst_mapInst_keeps Spi.cr1 s k (fun x => (afterSrRead_fields s.cfg.pos x).1) k)

/-- The four micro-steps of a frame. -/
theorem execRun_blockFrame (hm : s.mstate = .blocking (.poll b l))
    (hflag : (s.inst k.toNat).sr.getLsbD (pollPos s.cfg.pos d) = true)
    (hlen : (s.frameSizeOf k.toNat).bytes ≤ l.toNat) (hok : s.ramOk b (s.frameSizeOf k.toNat) = true) (n : Nat) :
    execRun (n + 4) (blockingCommand d k buf len) s
      = execRun n (blockingCommand d k buf len)
          ((frameMoved (s.afterRead (.spi k.toNat .sr)) k.toNat d b (s.frameSizeOf k.toNat)).goto
            (.blocking (blockNext (b + BitVec.ofNat 32 (s.frameSizeOf k.toNat).bytes)
              (l - BitVec.ofNat 32 (s.frameSizeOf k.toNat).bytes)))) := by
  have hpolled := (ramOk_congr (afterRead_fields s (.spi k.toNat .sr)).1 b (s.frameSizeOf k.toNat)).trans hok
  rw [execRun_succ (exec_poll hm), if_pos hflag, execRun_succ (exec_frameCheck (mstate_goto ..))]
  have hsize : ((s.afterRead (.spi k.toNat .sr)).goto (.blocking (.frame b l))).frameSizeOf k.toNat
      = s.frameSizeOf k.toNat := frameSizeOf_afterRead_sr s k.toNat
  rw [hsize, if_neg (Nat.not_lt.mpr hlen), goto_goto, execRun_movesFrame movesFrame_blocking hpolled]

end Blocking

/-- Settles O40, position by position. -/
theorem blockingTransferSteps : Obligations.BlockingTransferSteps := by
  intro d k buf len s hk
  refine ⟨fun hm htx hrx hblk => ?_, fun b l hm hflag => ?_, fun b l hm hflag hlen hok => ?_, fun hm hbsy => ?_,
    fun hm hbsy => ?_⟩
  · exact (exec_blockingCommand_fresh hm hk).trans (if_neg (not_inFlight htx hrx hblk))
  · have hwait : ¬ (s.inst k.toNat).sr.getLsbD (pollPos s.cfg.pos d) = true := by
      rw [Bool.not_eq_true]
      cases d <;> exact hflag
    rw [exec_poll hm, if_neg hwait]
  · have hpass : (s.inst k.toNat).sr.getLsbD (pollPos s.cfg.pos d) = true := by cases d <;> exact hflag
    exact ⟨⟨_, exec_blocking hm⟩, execRun_blockFrame hm hpass hlen hok 0⟩
  · rw [exec_idle hm, if_pos hbsy]
  · rw [exec_idle hm, if_neg (Bool.not_eq_true _ ▸ hbsy)]

/-! ## A transmit whose frames SPIDEV takes at once (R126, R130) -/

/-- A frame of a transmit, as its device sees it: the poll, the write of `DR`, and SPIDEV taking the frame. -/
def Spi.frameSent (p : FieldPos) (v : Word) (x : Spi) : Spi :=
  ((x.afterSrRead p).afterDrWrite p v).react p .takeFrame

/-- What a frame sent leaves of its device: the frame at the end of `TXOUT`, `TXE` set again, and the configuration and
the transfer contexts as they were. -/
theorem frameSent_fields (p : FieldPos) (v : Word) (x : Spi) :
    (x.frameSent p v).txout = x.txout ++ [((frameSize p x.cr1).low v).setWidth 16]
      ∧ (x.frameSent p v).sr.getLsbD p.txe = true ∧ (x.frameSent p v).cr1 = x.cr1 ∧ (x.frameSent p v).tx = x.tx
      ∧ (x.frameSent p v).rx = x.rx := by
  have hsent := react_takeFrame (p := p) (x := (x.afterSrRead p).afterDrWrite p v) rfl
  have hfields := afterSrRead_fields p x
  refine ⟨?_, ?_, ?_, ?_, ?_⟩ <;> rw [Spi.frameSent, hsent] <;> simp [Spi.afterDrWrite]

section Transmit

variable {k : BitVec 8} {buf len b l : Word} {s : State}

@[simp] theorem spiEvent_goto (s : State) (m : MState) (k : Nat) (e : SpiEvent) :
    (s.goto m).spiEvent k e = (s.spiEvent k e).goto m := by
  unfold State.spiEvent
  rw [nSpi_goto]
  split <;> rfl

theorem setInst_spiEvent (s : State) {k : Nat} (x : Spi) (e : SpiEvent) (hk : k < s.nSpi) :
    (s.setInst k x).spiEvent k e = s.setInst k (x.react s.cfg.pos e) := by
  rw [State.spiEvent, nSpi_setInst, if_pos hk, setInst_mapInst s x _ hk]
  rfl

/-- The state after a frame sent. -/
def State.frameSent (s : State) (k : Nat) (v : Word) (m : MState) : State :=
  (s.setInst k ((s.inst k).frameSent s.cfg.pos v)).goto m

theorem sendFrames_succ (hk : k.toNat < s.nSpi) (hm : s.mstate = .blocking (.poll b l))
    (hflag : (s.inst k.toNat).sr.getLsbD s.cfg.pos.txe = true) (hlen : (s.frameSizeOf k.toNat).bytes ≤ l.toNat)
    (hok : s.ramOk b (s.frameSizeOf k.toNat) = true) (n : Nat) :
    sendFrames k buf len (n + 1) s
      = sendFrames k buf len n (s.frameSent k.toNat (s.mem.readFrame b (s.frameSizeOf k.toNat))
          (.blocking (blockNext (b + BitVec.ofNat 32 (s.frameSizeOf k.toNat).bytes)
            (l - BitVec.ofNat 32 (s.frameSizeOf k.toNat).bytes)))) := by
  have hmoved : frameMoved (s.afterRead (.spi k.toNat .sr)) k.toNat .tx b (s.frameSizeOf k.toNat)
      = s.setInst k.toNat (((s.inst k.toNat).afterSrRead s.cfg.pos).afterDrWrite s.cfg.pos
          (s.mem.readFrame b (s.frameSizeOf k.toNat))) := setInst_regWrite s _ .dr _ hk
  have hrun := execRun_blockFrame (d := .tx) (buf := buf) (len := len) hm hflag hlen hok 0
  simp only [blockingCommand] at hrun
  rw [sendFrames, hrun, hmoved]
  simp only [execRun_zero, spiEvent_goto, setInst_spiEvent s _ _ hk]
  rfl

/-- A frame sent appends to `TXOUT` and leaves the machine ready for the next. -/
theorem frameSent_state (hk : k.toNat < s.nSpi) (v : Word) (m : MState) :
    (s.frameSent k.toNat v m).nSpi = s.nSpi ∧ (s.frameSent k.toNat v m).mstate = m
      ∧ (s.frameSent k.toNat v m).frameSizeOf k.toNat = s.frameSizeOf k.toNat
      ∧ ((s.frameSent k.toNat v m).inst k.toNat).sr.getLsbD s.cfg.pos.txe = true
      ∧ ((s.frameSent k.toNat v m).inst k.toNat).txout
        = (s.inst k.toNat).txout ++ [((s.frameSizeOf k.toNat).low v).setWidth 16]
      ∧ ∀ d, (s.frameSent k.toNat v m).tc k.toNat d = s.tc k.toNat d := by
  obtain ⟨htxout, htxe, hcr1, htx, hrx⟩ := frameSent_fields s.cfg.pos v (s.inst k.toNat)
  have hinst : (s.frameSent k.toNat v m).inst k.toNat = (s.inst k.toNat).frameSent s.cfg.pos v :=
    inst_setInst_self s _ hk
  refine ⟨nSpi_setInst s _ _, mstate_goto _ m, frameSizeOf_congr rfl ?_, ?_, ?_, fun d => ?_⟩
  · rw [hinst, hcr1]
  · rw [hinst, htxe]
  · rw [hinst, htxout]
    rfl
  · rw [State.tc, hinst]
    cases d
    · exact htx
    · exact hrx

end Transmit

/-- From a poll with `n` frames left; with none left, from the wait for `BSY`. -/
theorem sendFrames_eq (k : BitVec 8) (buf len : Word) (n : Nat) {b : Word} {s : State} {f : FrameSize}
    (hk : k.toNat < s.nSpi) (hf : s.frameSizeOf k.toNat = f) (hn : n * f.bytes < 2 ^ 32)
    (hm : s.mstate = .blocking (blockNext b (BitVec.ofNat 32 (n * f.bytes))))
    (hflag : (s.inst k.toNat).sr.getLsbD s.cfg.pos.txe = true)
    (hok : ∀ j < n, s.ramOk (b + BitVec.ofNat 32 (j * f.bytes)) f = true) :
    ∃ t, sendFrames k buf len n s = some t ∧ t.mstate = .blocking .idle
      ∧ (t.inst k.toNat).txout = (s.inst k.toNat).txout
          ++ (List.range n).map (fun j => (s.mem.readFrame (b + BitVec.ofNat 32 (j * f.bytes)) f).setWidth 16)
      ∧ t.mem = s.mem ∧ t.log = s.log ∧ ∀ d, t.tc k.toNat d = s.tc k.toNat d := by
  induction n generalizing b s with
  | zero => exact ⟨s, rfl, by simpa [blockNext] using hm, by simp, rfl, rfl, fun _ => rfl⟩
  | succ n ih =>
    subst hf
    have hlen : (s.frameSizeOf k.toNat).bytes
        ≤ (BitVec.ofNat 32 ((n + 1) * (s.frameSizeOf k.toNat).bytes)).toNat := by
      rw [toNat_bufferLength hn]
      exact Nat.le_mul_of_pos_left _ (Nat.succ_pos n)
    have hfirst : s.ramOk b (s.frameSizeOf k.toNat) = true := by simpa using hok 0 (Nat.succ_pos n)
    rw [blockNext, if_neg (bufferLength_ne_zero (Nat.succ_pos n) hn)] at hm
    rw [sendFrames_succ hk hm hflag hlen hfirst n, bufferLength_sub_frame]
    obtain ⟨hnSpi, hm', hf', htxe, hout, htc⟩ := frameSent_state hk (s.mem.readFrame b (s.frameSizeOf k.toNat))
      (.blocking (blockNext (b + BitVec.ofNat 32 (s.frameSizeOf k.toNat).bytes)
        (BitVec.ofNat 32 (n * (s.frameSizeOf k.toNat).bytes))))
    obtain ⟨t, ht, hidle, hout', hmem, hlog, htc'⟩ := ih (hnSpi ▸ hk) hf' (by rw [Nat.succ_mul] at hn; omega) hm' htxe
      fun j hj => frameAddress_succ b _ j ▸ hok (j + 1) (Nat.succ_lt_succ hj)
    refine ⟨t, ht, hidle, ?_, hmem, hlog, fun d => (htc' d).trans (htc d)⟩
    rw [hout', hout, FrameSize.low_readFrame, List.range_succ_eq_map, List.map_cons, List.map_map, List.append_assoc]
    simp only [frameAddress_succ, Function.comp_def, Nat.zero_mul, BitVec.add_zero]
    rfl

/-- Settles O41: by induction on the frames that are left. -/
theorem transmitSendsBufferInOrder : Obligations.TransmitSendsBufferInOrder := by
  intro k buf len b l s n _ hk f h1 hn hl hm hflag hok
  subst hl
  have hpoll : s.mstate = .blocking (blockNext b (BitVec.ofNat 32 (n * f.bytes))) := by
    rw [hm, blockNext, if_neg (bufferLength_ne_zero h1 hn)]
  obtain ⟨t, ht, hidle, hout, hmem, hlog, htc⟩ := sendFrames_eq k buf len n hk rfl hn hpoll hflag hok
  exact ⟨t, ht, hidle, hout, hmem, hlog, htc .tx, htc .rx⟩

end Sys2Proof.Machine
end

section
/-! SUPPORT. The SPI dispatch (43_spi_engine.md R113 to R121): which sub-handlers it begins, and what a dispatch
with nothing to do leaves behind. -/

namespace Sys2Proof.Machine

open Host (Outcome)

/-! ## What accesses keep of a device -/

@[simp] theorem tc_afterSrRead (p : FieldPos) (x : Spi) (d : Direction) : (x.afterSrRead p).tc d = x.tc d := by
  cases d <;> simp [Spi.tc]

@[simp] theorem tc_put (p : FieldPos) (x : Spi) (r : SpiReg) (v : Word) (d : Direction) :
    (x.put p r v).tc d = x.tc d := by
  cases r with
  | sr => simp only [Spi.put, Spi.afterSrWrite]; split <;> cases d <;> rfl
  | cr1 | cr2 | dr => cases d <;> rfl

/-- No register write reaches a transfer context (10_state.md R39). -/
@[simp] theorem tc_regWrite (s : State) (r : Reg) (v : Word) (k : Nat) (d : Direction) :
    (s.regWrite r v).tc k d = s.tc k d := by
  cases r with
  | spi j r => exact inst_mapInst_keeps (Spi.tc · d) s j (fun x => tc_put s.cfg.pos x r v d) k
  | iser _ | icer _ | ipr _ | exti _ | exticr _ | gpio _ _ => rfl

/-- No register read reaches a transfer context (10_state.md R39). -/
@[simp] theorem tc_afterRead (s : State) (r : Reg) (k : Nat) (d : Direction) : (s.afterRead r).tc k d = s.tc k d := by
  rcases afterRead_eq s r with h | ⟨j, -, h⟩ | ⟨j, -, h⟩ <;> rw [h]
  · exact inst_mapInst_keeps (Spi.tc · d) s j (fun x => tc_afterSrRead s.cfg.pos x d) k
  · exact inst_mapInst_keeps (Spi.tc · d) s j (fun x => by cases d <;> rfl) k

@[simp] theorem tc_frameMoved (s : State) (i : Nat) (c : Direction) (b : Word) (f : FrameSize) (k : Nat)
    (d : Direction) : (frameMoved s i c b f).tc k d = s.tc k d := by
  cases c with
  | tx => exact tc_regWrite s _ _ k d
  | rx => exact tc_afterRead s _ k d

@[simp] theorem frameMoved_fields (s : State) (k : Nat) (d : Direction) (b : Word) (f : FrameSize) :
    (frameMoved s k d b f).cfg = s.cfg ∧ (frameMoved s k d b f).log = s.log
      ∧ (frameMoved s k d b f).nSpi = s.nSpi := by
  cases d with
  | tx => exact ⟨rfl, rfl, nSpi_mapInst s k _⟩
  | rx => exact ⟨rfl, rfl, nSpi_mapInst s k _⟩

@[simp] theorem cr1_frameMoved (s : State) (k : Nat) (d : Direction) (b : Word) (f : FrameSize) (j : Nat) :
    ((frameMoved s k d b f).inst j).cr1 = (s.inst j).cr1 := by
  cases d with
  | tx => exact inst_mapInst_keeps Spi.cr1 s k (f := Spi.afterDrWrite s.cfg.pos (s.mem.readFrame b f)) (fun _ => rfl) j
  | rx => exact inst_mapInst_keeps Spi.cr1 s k (f := Spi.afterDrRead s.cfg.pos) (fun _ => rfl) j

/-! ## One micro-step, position by position -/

section Positions

variable {k : BitVec 8} {s : State} {h : Handler} {d : Direction} {rest : List Handler}

theorem exec_dispatch_fresh (hm : s.mstate = .fresh) (hk : k.toNat < s.nSpi) :
    exec (.spiIrqHandle k) s = .next (dispatchStep k.toNat (orderHandlers s.order) s) := by
  rw [exec, execSpiIrqHandle, hm]
  exact if_neg (Nat.not_le.mpr hk)

theorem exec_dispatch (hm : s.mstate = .dispatch rest) :
    exec (.spiIrqHandle k) s = .next (dispatchStep k.toNat rest s) := by
  rw [exec, execSpiIrqHandle, hm]

/-- `<h2>`: the read of `CR2` decides (R113). -/
theorem exec_select {sr : Word} (hm : s.mstate = .select h rest sr) :
    exec (.spiIrqHandle k) s
      = .next (if handlerRuns s.cfg.pos h sr (s.inst k.toNat).cr2 then beginHandler k.toNat h rest s
          else s.continueDispatch rest) := by
  rw [exec, execSpiIrqHandle, hm]
  exact (apply_ite Outcome.next ..).symm

theorem exec_tick {pos : TickPos} (hm : s.mstate = .tick d rest pos) :
    exec (.spiIrqHandle k) s = .next (tickStep k.toNat d rest pos s) := by
  rw [exec, execSpiIrqHandle, hm]

theorem exec_drain {pos : OvrPos} (hm : s.mstate = .drain rest pos) :
    exec (.spiIrqHandle k) s = .next (drainStep k.toNat rest pos s) := by
  rw [exec, execSpiIrqHandle, hm]

theorem exec_crcClear (hm : s.mstate = .crcClear rest) :
    exec (.spiIrqHandle k) s
      = .next ((s.regWrite (.spi k.toNat .sr) (~~~(oneHot s.cfg.pos.crcerr))).notify k.toNat .crcErr rest) := by
  rw [exec, execSpiIrqHandle, hm]

/-- `<h1>`: the read of `SR` for the next sub-handler (R113). -/
theorem dispatchStep_cons (k : Nat) (h : Handler) (rest : List Handler) (s : State) :
    dispatchStep k (h :: rest) s = (s.afterRead (.spi k .sr)).goto (.select h rest (s.inst k).sr) := rfl

end Positions

/-! ## The draw (R113, log 4) -/

theorem orderHandlers_perm : ∀ o : Order, (orderHandlers o).Perm [.tick .tx, .tick .rx, .ovr, .crc] := by
  decide

theorem exists_order_of_perm {l : List Handler} (h : l.Perm [.tick .tx, .tick .rx, .ovr, .crc]) :
    ∃ o : Order, orderHandlers o = l := by
  have hall : ∀ m ∈ List.permutations' [Handler.tick .tx, .tick .rx, .ovr, .crc], ∃ o : Order, orderHandlers o = m := by
    decide
  exact hall l (List.mem_permutations'.mpr h)

/-- Settles O45, position by position. -/
theorem dispatchSelectsHandlers : Obligations.DispatchSelectsHandlers := by
  refine ⟨orderHandlers_perm, fun _ => exists_order_of_perm, fun k s hk => ?_⟩
  refine ⟨rfl, fun _ _ => rfl, fun h rest hm horder => ?_, fun h rest hm => ?_, fun h rest sr hm => ?_⟩
  · rw [exec_dispatch_fresh hm hk, horder, dispatchStep_cons]
  · rw [exec_dispatch hm, dispatchStep_cons]
  · rw [exec_select hm]
    refine ⟨?_, ?_, ?_, ?_⟩ <;> rintro rfl <;> simp [handlerRuns, beginHandler, crcBegin]

/-! ## A dispatch with nothing to do (R113) -/

section Idle

variable {k : BitVec 8} {s : State}

/-- An `SR` read changes nothing where no overrun clear is due (R132). -/
theorem afterRead_sr_of_not_due {k : Nat}
    (h : ¬ ((s.inst k).sr.getLsbD s.cfg.pos.ovr = true ∧ (s.inst k).ovrseq = true)) : s.afterRead (.spi k .sr) = s := by
  rw [State.afterRead, State.mapInst, afterSrRead_of_not_due h, setInst_inst]

/-- A sub-handler whose condition does not hold takes two micro-steps. -/
theorem execRun_dispatch_skip {h : Handler} (hread : s.afterRead (.spi k.toNat .sr) = s)
    (hskip : handlerRuns s.cfg.pos h (s.inst k.toNat).sr (s.inst k.toNat).cr2 = false) (rest : List Handler) (n : Nat) :
    execRun (n + 2) (.spiIrqHandle k) (s.goto (.dispatch (h :: rest)))
      = execRun n (.spiIrqHandle k) (s.continueDispatch rest) := by
  rw [execRun_succ (exec_dispatch (mstate_goto ..)), dispatchStep_cons, afterRead_goto, hread, goto_goto,
    execRun_succ (exec_select (mstate_goto ..)), if_neg, continueDispatch_goto]
  exact Bool.not_eq_true _ ▸ hskip

theorem execRun_dispatch_idle (hread : s.afterRead (.spi k.toNat .sr) = s)
    (hskip : ∀ h, handlerRuns s.cfg.pos h (s.inst k.toNat).sr (s.inst k.toNat).cr2 = false) (h : Handler)
    (rest : List Handler) :
    execRun (2 * (h :: rest).length) (.spiIrqHandle k) (s.goto (.dispatch (h :: rest))) = .next s.complete := by
  induction rest generalizing h with
  | nil => exact execRun_dispatch_skip hread (hskip h) [] 0
  | cons g rest ih => exact (execRun_dispatch_skip hread (hskip h) (g :: rest) _).trans (ih g)

end Idle

/-- Settles O46: four sub-handlers in some order, each skipped. -/
theorem idleDispatchCompletes : Obligations.IdleDispatchCompletes := by
  intro k s hm hk x p htx hrx herr hdue
  have hskip (h : Handler) : handlerRuns s.cfg.pos h (s.inst k.toNat).sr (s.inst k.toNat).cr2 = false := by
    rw [Bool.eq_false_iff]
    rcases h with (_ | _) | _ | _ <;> simp only [handlerRuns, ne_eq, Bool.and_eq_true]
    · exact htx
    · exact hrx
    · exact fun h => herr ⟨.inl h.1, h.2⟩
    · exact fun h => herr ⟨.inr h.1, h.2⟩
  have hread := afterRead_sr_of_not_due hdue
  have hlength : (orderHandlers s.order).length = 4 := (orderHandlers_perm s.order).length_eq
  have hfresh := exec_dispatch_fresh hm hk
  rcases hl : orderHandlers s.order with _ | ⟨h, rest⟩ <;> rw [hl] at hlength hfresh
  · exact absurd hlength (by decide)
  · have hidle := execRun_dispatch_idle hread hskip h rest
    rw [hlength, execRun_succ (exec_dispatch (mstate_goto ..)), dispatchStep_cons, afterRead_goto, goto_goto] at hidle
    exact (execRun_succ hfresh).trans hidle

end Sys2Proof.Machine
end

section
/-! SUPPORT. The ticks of an interrupt-driven transfer without interference (43_spi_engine.md R114 to R116, R128). -/

namespace Sys2Proof.Machine

open Host (Outcome)

/-! ## One tick (R114, R116) -/

/-- A tick that goes on records the frame moved: the advanced pointer and the shorter length (R114 `<x6>`, `<x7>`). -/
def State.tickRecorded (s : State) (k : Nat) (d : Direction) (f : FrameSize) (l b : Word) : State :=
  s.mapInst k (fun x => x.setTc d ⟨b + BitVec.ofNat 32 f.bytes, l - BitVec.ofNat 32 f.bytes, .busy⟩)

@[simp] theorem nSpi_tickRecorded (s : State) (k : Nat) (d : Direction) (f : FrameSize) (l b : Word) :
    (s.tickRecorded k d f l b).nSpi = s.nSpi := nSpi_mapInst s k _

@[simp] theorem frameSizeOf_tickRecorded (s : State) (k : Nat) (d : Direction) (f : FrameSize) (l b : Word) (j : Nat) :
    (s.tickRecorded k d f l b).frameSizeOf j = s.frameSizeOf j :=
  frameSizeOf_congr rfl (inst_mapInst_keeps Spi.cr1 s k (fun x => cr1_setTc x d _) j)

theorem tc_tickRecorded (s : State) {k : Nat} (d : Direction) (f : FrameSize) (l b : Word) (hk : k < s.nSpi) :
    (s.tickRecorded k d f l b).tc k d = ⟨b + BitVec.ofNat 32 f.bytes, l - BitVec.ofNat 32 f.bytes, .busy⟩ := by
  rw [State.tc, State.tickRecorded, inst_mapInst_self s k _ hk, tc_setTc, if_pos rfl]

theorem setLen_setBuf_eq_tickRecorded (s : State) {k : Nat} (d : Direction) (f : FrameSize) (l b : Word)
    (hk : k < s.nSpi) (hbusy : (s.tc k d).st = .busy) :
    (s.setLen k d (l - BitVec.ofNat 32 f.bytes)).setBuf k d (b + BitVec.ofNat 32 f.bytes)
      = s.tickRecorded k d f l b := by
  have hst : ((s.inst k).tc d).st = .busy := hbusy
  rw [State.setLen, State.setBuf, mapInst_mapInst s _ _ hk]
  simp [State.tickRecorded, State.mapInst, hst]

/-- After a frame moved, a tick closes the direction where nothing is left of the buffer (R114, R116). -/
def State.afterTick (s : State) (d : Direction) (rest : List Handler) (left : Word) : State :=
  if left = 0 then s.goto (.tick d rest (.closing .cr2Read)) else s.continueDispatch rest

section Tick

variable {k : BitVec 8} {d : Direction} {rest : List Handler} {s : State}

/-- The four reads before the frame: state, frame size, length and pointer. -/
theorem execRun_tick_reads (hbusy : (s.tc k.toNat d).st = .busy)
    (hlen : (s.frameSizeOf k.toNat).bytes ≤ (s.tc k.toNat d).len.toNat) (n : Nat) :
    execRun (n + 4) (.spiIrqHandle k) (s.goto (.tick d rest .stRead))
      = execRun n (.spiIrqHandle k) (s.goto (.tick d rest
          (.first (s.frameSizeOf k.toNat) (s.tc k.toNat d).len (s.tc k.toNat d).buf))) := by
  have hst : tickStep k.toNat d rest .stRead (s.goto (.tick d rest .stRead)) = s.goto (.tick d rest .cr1Read) := by
    simp [tickStep, hbusy]
  have hcr1 : tickStep k.toNat d rest .cr1Read (s.goto (.tick d rest .cr1Read))
      = s.goto (.tick d rest (.lenRead (s.frameSizeOf k.toNat))) := goto_goto ..
  have hread : tickStep k.toNat d rest (.lenRead (s.frameSizeOf k.toNat))
      (s.goto (.tick d rest (.lenRead (s.frameSizeOf k.toNat))))
      = s.goto (.tick d rest (.bufRead (s.frameSizeOf k.toNat) (s.tc k.toNat d).len)) := by
    simp [tickStep, Nat.not_lt.mpr hlen]
  rw [execRun_succ (exec_tick (mstate_goto ..)), hst, execRun_succ (exec_tick (mstate_goto ..)), hcr1,
    execRun_succ (exec_tick (mstate_goto ..)), hread, execRun_succ (exec_tick (mstate_goto ..))]
  simp [tickStep]

theorem movesFrame_tick (k : BitVec 8) (d : Direction) (rest : List Handler) (f : FrameSize) (l b : Word) :
    MovesFrame (.spiIrqHandle k) k.toNat d b f (.tick d rest (.first f l b))
      (fun x => .tick d rest (.second f l b x)) (.tick d rest (.lenWrite f l b)) where
  load := by
    rintro rfl s hok
    rw [exec_tick (mstate_goto ..)]
    simp [tickStep, hok]
  send := by
    rintro rfl s x
    rw [exec_tick (mstate_goto ..)]
    simp [tickStep]
  receive := by
    rintro rfl s
    rw [exec_tick (mstate_goto ..)]
    simp [tickStep, readSpi]
  store := by
    rintro rfl s x hok
    rw [exec_tick (mstate_goto ..)]
    simp [tickStep, hok]

/-- The two writes that record the frame moved, and where the tick goes on. -/
theorem execRun_tick_record (f : FrameSize) (l b : Word) (hk : k.toNat < s.nSpi) (hbusy : (s.tc k.toNat d).st = .busy)
    (n : Nat) :
    execRun (n + 2) (.spiIrqHandle k) (s.goto (.tick d rest (.lenWrite f l b)))
      = execRun n (.spiIrqHandle k)
          ((s.tickRecorded k.toNat d f l b).afterTick d rest (l - BitVec.ofNat 32 f.bytes)) := by
  rw [execRun_succ (exec_tick (mstate_goto ..)), tickStep, setLen_goto, goto_goto,
    execRun_succ (exec_tick (mstate_goto ..)), tickStep, setBuf_goto, setLen_setBuf_eq_tickRecorded s d f l b hk hbusy,
    goto_goto, continueDispatch_goto]
  rfl

/-- A tick up to the record of its frame. -/
theorem execRun_tick (hk : k.toNat < s.nSpi) (hbusy : (s.tc k.toNat d).st = .busy)
    (hlen : (s.frameSizeOf k.toNat).bytes ≤ (s.tc k.toNat d).len.toNat)
    (hok : s.ramOk (s.tc k.toNat d).buf (s.frameSizeOf k.toNat) = true) (n : Nat) :
    execRun (n + 8) (.spiIrqHandle k) (s.goto (.tick d rest .stRead))
      = execRun n (.spiIrqHandle k)
          (((frameMoved s k.toNat d (s.tc k.toNat d).buf (s.frameSizeOf k.toNat)).tickRecorded k.toNat d
              (s.frameSizeOf k.toNat) (s.tc k.toNat d).len (s.tc k.toNat d).buf).afterTick d rest
            ((s.tc k.toNat d).len - BitVec.ofNat 32 (s.frameSizeOf k.toNat).bytes)) := by
  rw [execRun_tick_reads (n := n + 4) hbusy hlen, execRun_movesFrame (n := n + 2) (movesFrame_tick ..) hok,
    execRun_tick_record _ _ _ (by simpa using hk) (by simpa using hbusy)]

theorem runsClose_tick (k : BitVec 8) (d : Direction) (rest : List Handler) :
    RunsClose (.spiIrqHandle k) k.toNat d (fun pos => .tick d rest (.closing pos))
      (fun t => t.notify k.toNat (completionEvent d) rest) := by
  intro s pos
  have hstep : tickStep k.toNat d rest (.closing pos) (s.goto (.tick d rest (.closing pos)))
      = afterClose (fun pos => .tick d rest (.closing pos)) (fun t => t.notify k.toNat (completionEvent d) rest)
          (closeStep k.toNat d pos (s.goto (.tick d rest (.closing pos)))) := by
    rw [tickStep, afterClose]
    rcases closeStep k.toNat d pos (s.goto (.tick d rest (.closing pos))) with ⟨_ | q, t⟩ <;> rfl
  rw [exec_tick (mstate_goto ..), hstep]
  exact congrArg _ (afterClose_closeStep_goto (fun u m => notify_goto u m _ _ _) _ _ _ s _)

/-- Closing a direction forgets the frame it recorded last. -/
theorem closed_tickRecorded (s : State) {k : Nat} (d : Direction) (f : FrameSize) (l b : Word) (hk : k < s.nSpi) :
    closed (s.tickRecorded k d f l b) k d = closed s k d := by
  simp only [State.tickRecorded, closed, mapInst_mapInst s _ _ hk, setTc_setTc, cr2_setTc, mapInst_fields]

theorem bytes_eq_sub_iff {f : FrameSize} {l : Word} (hlen : f.bytes ≤ l.toNat) :
    l - BitVec.ofNat 32 f.bytes = 0 ↔ l.toNat = f.bytes := by
  cases f <;> simp only [FrameSize.bytes] at hlen ⊢ <;> bv_omega

/-- A tick with more than a frame left. -/
theorem execRun_tick_more (hk : k.toNat < s.nSpi) (hbusy : (s.tc k.toNat d).st = .busy)
    (hlen : (s.frameSizeOf k.toNat).bytes < (s.tc k.toNat d).len.toNat)
    (hok : s.ramOk (s.tc k.toNat d).buf (s.frameSizeOf k.toNat) = true) :
    execRun 8 (.spiIrqHandle k) (s.goto (.tick d rest .stRead))
      = .next (((frameMoved s k.toNat d (s.tc k.toNat d).buf (s.frameSizeOf k.toNat)).tickRecorded k.toNat d
          (s.frameSizeOf k.toNat) (s.tc k.toNat d).len (s.tc k.toNat d).buf).continueDispatch rest) := by
  have hleft := mt (bytes_eq_sub_iff hlen.le).mp hlen.ne'
  rw [execRun_tick (n := 0) hk hbusy hlen.le hok, State.afterTick, if_neg hleft, execRun_zero]

/-- A tick with exactly a frame left. -/
theorem execRun_tick_last (hk : k.toNat < s.nSpi) (hbusy : (s.tc k.toNat d).st = .busy)
    (hlen : (s.tc k.toNat d).len.toNat = (s.frameSizeOf k.toNat).bytes)
    (hok : s.ramOk (s.tc k.toNat d).buf (s.frameSizeOf k.toNat) = true) :
    execRun 13 (.spiIrqHandle k) (s.goto (.tick d rest .stRead))
      = .next ((closed (frameMoved s k.toNat d (s.tc k.toNat d).buf (s.frameSizeOf k.toNat)) k.toNat d).notify k.toNat
          (completionEvent d) rest) := by
  have hk' : k.toNat < (frameMoved s k.toNat d (s.tc k.toNat d).buf (s.frameSizeOf k.toNat)).nSpi := by simpa using hk
  rw [execRun_tick (n := 5) hk hbusy hlen.ge hok, State.afterTick, if_pos ((bytes_eq_sub_iff hlen.ge).mpr hlen),
    execRun_close (runsClose_tick k d rest) _ (by simpa using hk') 0,
    closed_tickRecorded _ _ _ _ _ hk', execRun_zero]

end Tick

/-- Settles O47: the two ends of a tick. -/
theorem tickMovesOneFrame : Obligations.TickMovesOneFrame := by
  intro k d rest s hk hm hbusy f b l moved hok
  refine ⟨fun hlen => ?_, fun hlen => ?_⟩
  · have hrun := execRun_tick_more (rest := rest) hk hbusy hlen hok
    rwa [goto_of_mstate hm] at hrun
  · have hrun := execRun_tick_last (rest := rest) hk hbusy hlen hok
    rwa [goto_of_mstate hm] at hrun

/-! ## A whole transfer (R128) -/

@[simp] theorem nSpi_complete (s : State) : s.complete.nSpi = s.nSpi := rfl

@[simp] theorem frameSizeOf_complete (s : State) (k : Nat) : s.complete.frameSizeOf k = s.frameSizeOf k := rfl

@[simp] theorem tc_complete (s : State) (k : Nat) (d : Direction) : s.complete.tc k d = s.tc k d := rfl

@[simp] theorem log_notify (s : State) (k : Nat) (ev : Event) (l : List Handler) :
    (s.notify k ev l).log = s.log ++ [(k, ev)] := by
  simp [State.notify, State.emit]

@[simp] theorem tc_notify (s : State) (i : Nat) (ev : Event) (l : List Handler) (k : Nat) (d : Direction) :
    (s.notify i ev l).tc k d = s.tc k d := by
  simp [State.tc, State.inst]

theorem tc_closed (s : State) {k : Nat} (d : Direction) (hk : k < s.nSpi) : (closed s k d).tc k d = .cleared := by
  rw [State.tc, closed, inst_mapInst_self s k _ hk]
  cases d <;> rfl

/-- A transfer of direction `d` has `n` frames of size `f` left, at `b`, all in RAM. -/
structure MidTransfer (s : State) (k : Nat) (d : Direction) (f : FrameSize) (n : Nat) (b : Word) : Prop where
  present : k < s.nSpi
  size : s.frameSizeOf k = f
  fits : n * f.bytes < 2 ^ 32
  ctx : s.tc k d = ⟨b, BitVec.ofNat 32 (n * f.bytes), .busy⟩
  inRam : ∀ j < n, s.ramOk (b + BitVec.ofNat 32 (j * f.bytes)) f = true

section Transfer

variable {k : BitVec 8} {d : Direction} {s : State} {f : FrameSize} {n : Nat} {b : Word}

/-- The first frame that is left is in RAM. -/
theorem MidTransfer.ramOk_head {k : Nat} (h : MidTransfer s k d f (n + 1) b) : s.ramOk b f = true := by
  simpa using h.inRam 0 (Nat.succ_pos n)

theorem MidTransfer.len_toNat {k : Nat} (h : MidTransfer s k d f n b) : (s.tc k d).len.toNat = n * f.bytes := by
  rw [h.ctx]
  exact toNat_bufferLength h.fits

/-- The state after a tick that is not the last. -/
theorem MidTransfer.next {k : Nat} (h : MidTransfer s k d f (n + 1) b) :
    MidTransfer ((frameMoved s k d b f).tickRecorded k d f (BitVec.ofNat 32 ((n + 1) * f.bytes)) b).complete k d f n
      (b + BitVec.ofNat 32 f.bytes) := by
  obtain ⟨hcfg, -, hnSpi⟩ := frameMoved_fields s k d b f
  have hk : k < (frameMoved s k d b f).nSpi := hnSpi ▸ h.present
  refine ⟨by simpa using hk, ?_, ?_, ?_, fun j hj => ?_⟩
  · rw [frameSizeOf_complete, frameSizeOf_tickRecorded, frameSizeOf_congr hcfg (cr1_frameMoved ..), h.size]
  · have hfits := h.fits
    rw [Nat.succ_mul] at hfits
    omega
  · rw [tc_complete, tc_tickRecorded _ d f _ b hk, bufferLength_sub_frame]
  · rw [frameAddress_succ]
    exact (ramOk_congr hcfg _ f).trans (h.inRam (j + 1) (Nat.succ_lt_succ hj))

/-- A tick that is not the last goes on with the next frame, and notifies nothing. -/
theorem runTick_more (h : MidTransfer s k.toNat d f (n + 2) b) :
    ∃ t, runTick k d s = some t ∧ t.log = s.log ∧ MidTransfer t k.toNat d f (n + 1) (b + BitVec.ofNat 32 f.bytes) := by
  refine ⟨_, ?_, ?_, h.next⟩
  · have hlen : f.bytes < (s.tc k.toNat d).len.toNat := by
      rw [h.len_toNat, Nat.succ_mul]
      exact Nat.lt_add_of_pos_left (Nat.mul_pos (Nat.succ_pos n) f.bytes_pos)
    have hok := h.ramOk_head
    obtain ⟨hk, rfl, -, hctx, -⟩ := h
    have hrun := execRun_tick_more (rest := []) hk (by rw [hctx]) hlen (by rw [hctx]; exact hok)
    rw [runTick, if_neg hlen.ne', hrun, hctx]
    rfl
  · exact (frameMoved_fields s k.toNat d b f).2.1

/-- The last tick closes the direction and notifies its completion. -/
theorem runTick_last (h : MidTransfer s k.toNat d f 1 b) :
    ∃ t, runTick k d s = some t ∧ t.tc k.toNat d = .cleared ∧ t.log = s.log ++ [(k.toNat, completionEvent d)] := by
  have hlen : (s.tc k.toNat d).len.toNat = f.bytes := h.len_toNat.trans (Nat.one_mul _)
  have hok := h.ramOk_head
  obtain ⟨hk, rfl, -, hctx, -⟩ := h
  have hrun := execRun_tick_last (rest := []) hk (by rw [hctx]) hlen (by rw [hctx]; exact hok)
  refine ⟨_, by rw [runTick, if_pos hlen, hrun], ?_, ?_⟩
  · rw [tc_notify]
    exact tc_closed _ d (by simpa using hk)
  · rw [log_notify]
    exact congrArg (· ++ _) (frameMoved_fields s k.toNat d _ _).2.1

/-- `j` ticks leave `j` frames fewer, and notify nothing before the last. -/
theorem ticks_lt {j : Nat} (hj : j < n) (h : MidTransfer s k.toNat d f n b) :
    ∃ u, ticks k d j s = some u ∧ u.log = s.log
      ∧ MidTransfer u k.toNat d f (n - j) (b + BitVec.ofNat 32 (j * f.bytes)) := by
  induction j generalizing s b n with
  | zero => exact ⟨s, rfl, rfl, by simpa using h⟩
  | succ j ih =>
    obtain ⟨m, rfl⟩ : ∃ m, n = m + 2 := ⟨n - 2, by omega⟩
    obtain ⟨t, ht, hlog, hmid⟩ := runTick_more h
    obtain ⟨u, hu, hlog', hmid'⟩ := ih (Nat.lt_of_succ_lt_succ hj) hmid
    rw [frameAddress_succ] at hmid'
    exact ⟨u, by rw [ticks, ht]; exact hu, hlog'.trans hlog, by rwa [Nat.succ_sub_succ]⟩

theorem ticks_all (h : MidTransfer s k.toNat d f (n + 1) b) :
    ∃ t, ticks k d (n + 1) s = some t ∧ t.tc k.toNat d = .cleared
      ∧ t.log = s.log ++ [(k.toNat, completionEvent d)] := by
  induction n generalizing s b with
  | zero =>
    obtain ⟨t, ht, htc, hlog⟩ := runTick_last h
    exact ⟨t, by rw [ticks, ht]; rfl, htc, hlog⟩
  | succ n ih =>
    obtain ⟨u, hu, hlog, hmid⟩ := runTick_more h
    obtain ⟨t, ht, htc, hlog'⟩ := ih hmid
    exact ⟨t, by rw [ticks, hu]; exact ht, htc, hlog ▸ hlog'⟩

end Transfer

/-- Settles O48: by induction on the frames that are left. -/
theorem transferTakesExactlyNTicks : Obligations.TransferTakesExactlyNTicks := by
  intro k d s b n hk f h1 hfits hctx hok
  have hmid : MidTransfer s k.toNat d f n b := ⟨hk, rfl, hfits, hctx, hok⟩
  refine ⟨fun j hj => ?_, ?_⟩
  · obtain ⟨u, hu, hlog, hu'⟩ := ticks_lt hj hmid
    exact ⟨u, hu, hlog, hu'.ctx⟩
  · obtain ⟨m, rfl⟩ : ∃ m, n = m + 1 := ⟨n - 1, by omega⟩
    obtain ⟨t, ht, htc, hlog⟩ := ticks_all hmid
    exact ⟨t, ht, htc, by rw [hlog]; cases d <;> rfl⟩

end Sys2Proof.Machine
end

section
/-! SUPPORT. The overrun and CRC sub-handlers and the notification (43_spi_engine.md R117, R120, R121, R132, R133), and
where a transfer stops (R114 to R116, R124). -/

namespace Sys2Proof.Machine

open Host (Outcome)

/-! ## The overrun handler (R117) -/

/-- Distinct positions keep `OVR` apart from `RXNE` (92_eei_decisions.md D4). -/
theorem ovr_ne_rxne {p : FieldPos} (h : posWf p = true) : p.ovr.val ≠ p.rxne.val := by
  simp only [posWf, Bool.and_eq_true] at h
  have hnodup := nodup_of_distinctNats h.2
  simp only [List.nodup_cons, List.mem_cons, not_or] at hnodup
  omega

/-- A drain clears an overrun: the `DR` read arms the clear, and the `SR` read makes it (R132). -/
theorem drain_clears_overrun {p : FieldPos} {x : Spi} (hp : posWf p = true) (hovr : x.sr.getLsbD p.ovr = true) :
    ((x.afterDrRead p).afterSrRead p).sr.getLsbD p.ovr = false
      ∧ ((x.afterDrRead p).afterSrRead p).ovrseq = false
      ∧ ((x.afterDrRead p).afterSrRead p).sr.getLsbD p.rxne = false := by
  have hne := ovr_ne_rxne hp
  have hdue : (x.afterDrRead p).sr.getLsbD p.ovr = true ∧ (x.afterDrRead p).ovrseq = true := by
    simp only [Spi.afterDrRead, getLsbD_putBit_field, if_neg hne, hovr, Bool.or_true, and_self]
  rw [afterSrRead_of_due hdue]
  simp only [Spi.afterDrRead, getLsbD_putBit_field, if_neg hne.symm, if_true, and_self]

/-- Without a transmit in flight the handler reads `DR` and then `SR`. -/
theorem execRun_drain {k : BitVec 8} {rest : List Handler} {s : State} (hm : s.mstate = .drain rest .stRead)
    (hready : (s.tc k.toNat .tx).st = .ready) :
    execRun 3 (.spiIrqHandle k) s
      = .next (((s.afterRead (.spi k.toNat .dr)).afterRead (.spi k.toNat .sr)).notify k.toNat .ovrErr rest) := by
  have hstate : drainStep k.toNat rest .stRead s = s.goto (.drain rest .drRead) := by simp [drainStep, hready]
  rw [execRun_succ (exec_drain hm), hstate, execRun_succ (exec_drain (mstate_goto ..)), drainStep,
    execRun_succ (exec_drain (mstate_goto ..)), drainStep, afterRead_goto, afterRead_goto, afterRead_goto, notify_goto,
    notify_goto, execRun_zero]

/-- Settles O50: the state read decides between the notification alone and the drain. -/
theorem overrunHandlerResult : Obligations.OverrunHandlerResult := by
  intro k rest s hk hm
  refine ⟨fun hbusy => ?_, fun hready => ⟨_, execRun_drain hm hready, rfl, fun hp hovr => ?_⟩⟩
  · exact (exec_drain hm).trans (congrArg Outcome.next (if_pos hbusy))
  · have hk' : k.toNat < (s.afterRead (.spi k.toNat .dr)).nSpi := (nSpi_mapInst s _ _).symm ▸ hk
    rw [inst_afterRead_sr _ hk', inst_afterRead_dr s hk]
    exact drain_clears_overrun hp hovr

/-! ## The CRC handler and the notification (R120, R121) -/

/-- The write of `SR` clears `CRCERR` and no other bit (R133). -/
theorem afterSrWrite_clear (p : FieldPos) (x : Spi) :
    x.afterSrWrite p (~~~(oneHot p.crcerr)) = { x with sr := putBit x.sr p.crcerr false } :=
  if_neg (by simp)

theorem exec_select_crc {k : BitVec 8} {rest : List Handler} {sr : Word} {s : State}
    (hm : s.mstate = .select .crc rest sr) (hcrc : sr.getLsbD s.cfg.pos.crcerr = true)
    (herr : (s.inst k.toNat).cr2.getLsbD s.cfg.pos.errie = true) :
    exec (.spiIrqHandle k) s
      = .next (if s.cfg.crcClear then s.goto (.crcClear rest) else s.notify k.toNat .crcErr rest) := by
  have hruns : handlerRuns s.cfg.pos .crc sr (s.inst k.toNat).cr2 = true := by
    rw [handlerRuns, hcrc, herr]
    rfl
  rw [exec_select hm, if_pos hruns]
  rfl

theorem notify_of_empty_callback {s : State} {k : Nat} {ev : Event} (h : callbackOf s.cfg k ev = [])
    (rest : List Handler) : s.notify k ev rest = (s.emit k ev).continueDispatch rest := by
  rw [State.notify, h, State.runCallback]

theorem notify_of_callback {s : State} {k : Nat} {ev : Event} (h : callbackOf s.cfg k ev ≠ [])
    (rest : List Handler) : s.notify k ev rest = (s.emit k ev).splice (.dispatch rest) (callbackOf s.cfg k ev) := by
  obtain ⟨w, ws, hcb⟩ := List.exists_cons_of_ne_nil h
  rw [State.notify, hcb, State.runCallback]

/-- Settles O51: the handler with and without its `SR` write, and the notification with and without a callback. -/
theorem crcHandlerResult : Obligations.CrcHandlerResult := by
  refine ⟨fun k rest sr s hk hm hcrc herr => ⟨fun hclear => ?_, fun hclear => ?_⟩, fun s k ev rest => ⟨?_, ?_⟩⟩
  · rw [exec_select_crc hm hcrc herr, hclear]
    rfl
  · rw [execRun_succ (exec_select_crc hm hcrc herr), if_pos hclear, execRun_succ (exec_crcClear (mstate_goto ..)),
      regWrite_goto, notify_goto, ← afterSrWrite_clear]
    rfl
  · exact fun h => notify_of_empty_callback h rest
  · exact fun h => notify_of_callback h rest

/-! ## Where a transfer stops (R114 to R116, R124; 20_memory.md R53) -/

section Stops

variable {k : BitVec 8} {d : Direction} {rest : List Handler} {buf len l b x : Word} {f : FrameSize} {s : State}

/-- A tick whose frame is not all in RAM stops at its access of memory: a transmit's before the `DR` write, a receive's
after the `DR` read. -/
theorem exec_tick_badAddress (hbad : s.ramOk b f = false)
    (hm : s.mstate = .tick .tx rest (.first f l b) ∨ s.mstate = .tick .rx rest (.second f l b x)) :
    exec (.spiIrqHandle k) s = .next (s.stick .badAddress) := by
  rcases hm with hm | hm <;> rw [exec_tick hm, tickStep, hbad] <;> rfl

theorem exec_spiTransmit_badAddress (hbad : s.ramOk b f = false) (hm : s.mstate = .blocking (.first b l f)) :
    exec (.spiTransmit k buf len) s = .next (s.stick .badAddress) := by
  have hstep := exec_blocking (d := .tx) (k := k) (buf := buf) (len := len) hm
  rw [blockStep, hbad] at hstep
  exact hstep

theorem exec_spiReceive_badAddress (hbad : s.ramOk b f = false) (hm : s.mstate = .blocking (.second b l f x)) :
    exec (.spiReceive k buf len) s = .next (s.stick .badAddress) := by
  have hstep := exec_blocking (d := .rx) (k := k) (buf := buf) (len := len) hm
  simp only [blockStep, hbad] at hstep
  exact hstep

end Stops

/-- Settles O49, stop by stop. -/
theorem transferStops : Obligations.TransferStops := by
  intro k d rest buf len s hk
  refine ⟨fun hm hready => ?_, fun f hm hlen => ?_, fun b l hm hlen => ?_, fun f b l x hbad => ⟨?_, ?_, ?_, ?_⟩⟩
  · have hidle : ¬ (s.tc k.toNat d).st = .busy := by simp [hready]
    rw [exec_tick hm, tickStep, if_neg hidle]
  · exact (exec_tick hm).trans (congrArg Outcome.next (if_pos hlen))
  · rw [exec_frameCheck hm, if_pos hlen]
  · exact fun hm => exec_tick_badAddress (x := x) hbad (.inl hm)
  · exact fun hm => exec_tick_badAddress hbad (.inr hm)
  · exact exec_spiTransmit_badAddress hbad
  · exact exec_spiReceive_badAddress hbad

end Sys2Proof.Machine
end

section
/-! SUPPORT. Who changes a transfer context (43_spi_engine.md R123): only a start, a dispatch or a close of its device
and of its direction. -/

namespace Sys2Proof.Machine

open Host (Outcome)

/-! ## Transfer contexts after each operation -/

/-- A transfer context is part of the SPI record. -/
theorem tc_congr {s t : State} (h : t.spi = s.spi) (k : Nat) (d : Direction) : t.tc k d = s.tc k d := by
  rw [State.tc, State.tc, State.inst, State.inst, h]

@[simp] theorem tc_raise (s : State) (c : FaultCode) (k : Nat) (d : Direction) : (s.raise c).tc k d = s.tc k d := rfl

@[simp] theorem tc_stick (s : State) (w : Stuck) (k : Nat) (d : Direction) : (s.stick w).tc k d = s.tc k d := rfl

@[simp] theorem tc_result (s : State) (v : ResultValue) (k : Nat) (d : Direction) :
    (s.result v).tc k d = s.tc k d := rfl

@[simp] theorem tc_storeFrame (s : State) (a : Word) (f : FrameSize) (v : Word) (k : Nat) (d : Direction) :
    (s.storeFrame a f v).tc k d = s.tc k d := rfl

@[simp] theorem tc_setBlk (s : State) (i : Nat) (b : Bool) (k : Nat) (d : Direction) :
    (s.setBlk i b).tc k d = s.tc k d :=
  inst_mapInst_keeps (Spi.tc · d) s i (fun x => by cases d <;> rfl) k

@[simp] theorem tc_readSpi (i : Nat) (r : SpiReg) (m : Word → MState) (s : State) (k : Nat) (d : Direction) :
    (readSpi i r m s).tc k d = s.tc k d := by
  simp [readSpi]

/-- A write to one direction's context keeps the other's. -/
theorem tc_setTc_mapInst {d e : Direction} (h : e ≠ d) (s : State) (i : Nat) (g : Spi → TransferCtx) (k : Nat) :
    (s.mapInst i (fun x => x.setTc e (g x))).tc k d = s.tc k d :=
  inst_mapInst_keeps (Spi.tc · d) s i (fun x => (tc_setTc x e d (g x)).trans (if_neg h)) k

section OtherDirection

variable {d e : Direction}

theorem tc_setBuf_of_ne (h : e ≠ d) (s : State) (i k : Nat) (v : Word) : (s.setBuf i e v).tc k d = s.tc k d :=
  tc_setTc_mapInst h s i _ k

theorem tc_setLen_of_ne (h : e ≠ d) (s : State) (i k : Nat) (v : Word) : (s.setLen i e v).tc k d = s.tc k d :=
  tc_setTc_mapInst h s i _ k

theorem tc_setSt_of_ne (h : e ≠ d) (s : State) (i k : Nat) (v : TransferState) :
    (s.setSt i e v).tc k d = s.tc k d :=
  tc_setTc_mapInst h s i _ k

end OtherDirection

/-! ## The commands that change no context of a direction -/

/-- An outcome that, when it is a next state, keeps a transfer context of `s`. -/
def KeepsTc (s : State) (k : Nat) (d : Direction) (o : Outcome State Fault Refusal) : Prop :=
  ∀ t, o = .next t → t.tc k d = s.tc k d

@[simp] theorem keepsTc_next (s t : State) (k : Nat) (d : Direction) :
    KeepsTc s k d (.next t) ↔ t.tc k d = s.tc k d := by
  simp [KeepsTc]

@[simp] theorem keepsTc_fault (s : State) (k : Nat) (d : Direction) (r : Fault) : KeepsTc s k d (.fault r) := by
  simp [KeepsTc]

theorem execSpiInit_keepsTc (i : BitVec 8) (dff errie : Bool) (cr1 : Word) (s : State) (k : Nat) (d : Direction) :
    KeepsTc s k d (execSpiInit i dff errie cr1 s) := by
  simp only [execSpiInit]
  split
  · repeat' split
    all_goals simp
  · simp
  · simp
  · simp

theorem tc_blockStep (i : Nat) (e : Direction) (pos : BlockPos) (s : State) (k : Nat) (d : Direction) :
    (blockStep i e pos s).tc k d = s.tc k d := by
  cases pos with
  | poll b len | frame b len | idle =>
    simp only [blockStep]
    split <;> simp
  | first b len f =>
    cases e with
    | tx => simp only [blockStep]; split <;> simp
    | rx => simp [blockStep]
  | second b len f x =>
    cases e with
    | tx => simp [blockStep]
    | rx => simp only [blockStep]; split <;> simp

/-- SPI_TRANSMIT and SPI_RECEIVE. -/
theorem blockingTransfer_keepsTc (e : Direction) (i : BitVec 8) (buf len : Word) (s : State) (k : Nat) (d : Direction) :
    KeepsTc s k d (blockingTransfer e i buf len s) := by
  simp only [blockingTransfer]
  split
  · repeat' split
    all_goals simp
  · simp [tc_blockStep]
  · simp

/-- A start of the other direction. -/
theorem startTransfer_keepsTc {d e : Direction} (h : e ≠ d) (i : BitVec 8) (buf len : Word) (s : State) (k : Nat) :
    KeepsTc s k d (startTransfer e i buf len s) := by
  simp only [startTransfer]
  split
  · repeat' split
    all_goals simp [tc_setBuf_of_ne h, tc_setLen_of_ne h, tc_setSt_of_ne h]
  · rename_i pos _
    cases pos <;> simp [startStep, tc_setBuf_of_ne h, tc_setLen_of_ne h, tc_setSt_of_ne h]
  · simp

/-- A close of the other direction. -/
theorem closeTransfer_keepsTc {d e : Direction} (h : e ≠ d) (i : BitVec 8) (s : State) (k : Nat) :
    KeepsTc s k d (closeTransfer e i s) := by
  simp only [closeTransfer]
  split
  · repeat' split
    all_goals simp
  · rename_i pos _
    cases pos <;> simp [closeStep, tc_setBuf_of_ne h, tc_setLen_of_ne h, tc_setSt_of_ne h]
  · simp

/-- The commands of R123 for a context: a start or a close of its direction, or the dispatch of its device. -/
def WritesTc (i : Instr) (k : Nat) (d : Direction) : Prop :=
  ∃ x : BitVec 8, x.toNat = k
    ∧ ((∃ buf len, i = startCommand d x buf len) ∨ i = .spiIrqHandle x ∨ i = closeCommand d x)

/-- A command of another device, or of none, keeps the context (10_state.md R39). -/
theorem exec_keepsTc_of_other {i : Instr} {k : Nat} (hi : commandInstance i ≠ some k) (s : State) (d : Direction) :
    KeepsTc s k d (exec i s) :=
  fun t ht => congrArg (Spi.tc · d) ((exec_effect i s t ht).inst_eq hi)

theorem writesTc_start (d : Direction) (x : BitVec 8) (buf len : Word) :
    WritesTc (startCommand d x buf len) x.toNat d := ⟨x, rfl, .inl ⟨buf, len, rfl⟩⟩

theorem writesTc_close (d : Direction) (x : BitVec 8) : WritesTc (closeCommand d x) x.toNat d :=
  ⟨x, rfl, .inr (.inr rfl)⟩

theorem exec_start_keepsTc {d e : Direction} {x : BitVec 8} {buf len : Word} {k : Nat}
    (h : ¬ WritesTc (startCommand e x buf len) k d) (hk : x.toNat = k) (s : State) :
    KeepsTc s k d (startTransfer e x buf len s) := by
  refine startTransfer_keepsTc (fun he => h ?_) x buf len s k
  subst he hk
  exact writesTc_start e x buf len

theorem exec_close_keepsTc {d e : Direction} {x : BitVec 8} {k : Nat} (h : ¬ WritesTc (closeCommand e x) k d)
    (hk : x.toNat = k) (s : State) : KeepsTc s k d (closeTransfer e x s) := by
  refine closeTransfer_keepsTc (fun he => h ?_) x s k
  subst he hk
  exact writesTc_close e x

theorem exec_keepsTc {i : Instr} {k : Nat} {d : Direction} (h : ¬ WritesTc i k d) (s : State) :
    KeepsTc s k d (exec i s) := by
  by_cases hi : commandInstance i = some k
  · cases i with
    | spiInit x dff errie cr1 => exact execSpiInit_keepsTc x dff errie cr1 s k d
    | spiTransmit x buf len => exact blockingTransfer_keepsTc .tx x buf len s k d
    | spiReceive x buf len => exact blockingTransfer_keepsTc .rx x buf len s k d
    | spiStartTx x buf len => exact exec_start_keepsTc (e := .tx) h (Option.some.inj hi) s
    | spiStartRx x buf len => exact exec_start_keepsTc (e := .rx) h (Option.some.inj hi) s
    | spiIrqHandle x => exact absurd ⟨x, Option.some.inj hi, .inr (.inl rfl)⟩ h
    | spiCloseTx x => exact exec_close_keepsTc (e := .tx) h (Option.some.inj hi) s
    | spiCloseRx x => exact exec_close_keepsTc (e := .rx) h (Option.some.inj hi) s
    | irqSetEnabled _ _ | irqSetPriority _ _ | extiConfigure _ _ _ | extiHandle _ | gpioConfigure _ _ _ _
    | gpioReadPin _ _ | gpioWritePin _ _ _ | gpioTogglePin _ _ => cases hi
  · exact exec_keepsTc_of_other hi s d

/-! ## Every step -/

/-- SPIDEV reaches no transfer context (R130, R131, R133). -/
theorem tc_react (p : FieldPos) (e : SpiEvent) (x : Spi) (d : Direction) : (x.react p e).tc d = x.tc d := by
  cases e with
  | takeFrame => simp only [Spi.react]; split <;> cases d <;> rfl
  | arrive v replace => simp only [Spi.react]; split <;> cases d <;> rfl
  | busy _ | modeFault | crcError | opaqueBits _ => cases d <;> rfl

theorem tc_spiEvent (s : State) (i : Nat) (e : SpiEvent) (k : Nat) (d : Direction) :
    (s.spiEvent i e).tc k d = s.tc k d := by
  unfold State.spiEvent
  split
  · exact inst_mapInst_keeps (Spi.tc · d) s i (fun x => tc_react s.cfg.pos e x d) k
  · rfl

/-- The running context changes a transfer context by one of those commands alone. -/
theorem runTop_tc {s t : State} {k : Nat} {d : Direction} (h : runTop s = .next t) (hne : t.tc k d ≠ s.tc k d) :
    ∃ i ws, decode s.fetchWords = .ok (i, ws) ∧ WritesTc i k d := by
  rcases runTop_cases s with ⟨-, hrun⟩ | ⟨-, i, ws, hd, hrun⟩ | ⟨-, e, -, hrun⟩
  · cases hrun.symm.trans h
    exact absurd rfl hne
  · refine ⟨i, ws, hd, by_contra fun hw => hne ?_⟩
    exact exec_keepsTc hw s t (hrun.symm.trans h)
  · cases hrun.symm.trans h
    exact absurd rfl hne

/-- Of the agents, only the running context changes a transfer context. -/
theorem applyMove_tc {m : Move} {s t : State} {k : Nat} {d : Direction} (h : applyMove m s = .next t)
    (hne : t.tc k d ≠ s.tc k d) : ∃ i ws, decode s.fetchWords = .ok (i, ws) ∧ WritesTc i k d := by
  cases m with
  | run o => exact runTop_tc (s := { s with order := o }) h hne
  | pend i => cases h; exact absurd (tc_congr (by simp) k d) hne
  | enter => cases h; exact absurd (tc_congr (by simp) k d) hne
  | pinChange p n => cases h; exact absurd (tc_congr (by simp) k d) hne
  | request i level => cases h; exact absurd (tc_congr (by simp) k d) hne
  | spi i e => cases h; exact absurd (tc_spiEvent s i e k d) hne

/-- Settles O23: a return changes no context, and a move only by a command of R123. -/
theorem onlyEngineWritesTransferContexts : Obligations.OnlyEngineWritesTransferContexts := by
  intro s t k d h hne
  rcases step_cases s with ⟨-, hs⟩ | ⟨m, sched, moves, -, hs⟩
  · cases hs.symm.trans h
    exact absurd (tc_congr (by simp) k d) hne
  · obtain ⟨i, ws, hd, x, hx, hi⟩ := applyMove_tc (hs.symm.trans h) hne
    exact ⟨i, ws, x, hd, hx, hi⟩

end Sys2Proof.Machine
end

section
/-! SUPPORT. Positions in every step: the running context's command takes its next micro-step from every position that
is its own, and leaves the context at a position of its own again (00_scope.md R12, 10_state.md R41;
60_exceptions.md R139, R148). -/

namespace Sys2Proof.Machine

open Host (Outcome)

/-! ## Positioned stacks -/

theorem positioned_congr {s t : State} (h : t.stack = s.stack) : t.positioned = s.positioned := by
  rw [State.positioned, State.positioned, h]

theorem top_positioned {s : State} (h : s.positioned = true) : s.top.positioned = true := by
  simp only [State.positioned, Bool.and_eq_true] at h
  rw [State.top, Stack.top]
  rcases hl : s.stack.isrs with _ | ⟨x, l⟩ <;> simp_all

/-- Where the contexts beneath the running one stay as they are, the running one alone decides. -/
theorem positioned_of_suspended_eq {s t : State} (h : t.stack.suspended = s.stack.suspended)
    (hs : s.positioned = true) (ht : t.top.positioned = true) : t.positioned = true := by
  obtain ⟨hsources, htail, hfg⟩ := Stack.suspended_eq h
  simp only [State.positioned, Bool.and_eq_true] at hs ⊢
  rw [State.top, Stack.top] at ht
  rcases hl : t.stack.isrs with _ | ⟨x, l⟩ <;> rcases hk : s.stack.isrs with _ | ⟨y, k⟩ <;> simp_all

theorem positioned_returnInterrupt {s : State} (h : s.positioned = true) : s.returnInterrupt.positioned = true := by
  unfold State.returnInterrupt
  split
  · exact h
  · simp_all [State.positioned]

/-! ## Command lists and contexts -/

/-- Every command can be before its first micro-step. -/
@[simp] theorem belongs_fresh (i : Instr) : belongs .fresh i = true := by
  cases i <;> rfl

/-- The positions of a dispatch (R113). -/
@[simp] theorem belongs_spiIrqHandle (x : BitVec 8) (rest : List Handler) :
    belongs (.dispatch rest) (.spiIrqHandle x) = true
      ∧ (∀ a sr, belongs (.select a rest sr) (.spiIrqHandle x) = true)
      ∧ (∀ d q, belongs (.tick d rest q) (.spiIrqHandle x) = true)
      ∧ (∀ q, belongs (.drain rest q) (.spiIrqHandle x) = true)
      ∧ belongs (.crcClear rest) (.spiIrqHandle x) = true := by
  exact ⟨rfl, fun _ _ => rfl, fun _ _ => rfl, fun _ => rfl, rfl⟩

theorem Frame.positioned_of_fresh {f : Frame} (h : f.mst = .fresh) : f.positioned = true := by
  unfold Frame.positioned
  split <;> simp [h]

theorem Frame.waiting_iff (f : Frame) :
    f.waiting = true ↔ ∃ x ws rest, decode f.rest = .ok (.spiIrqHandle x, ws) ∧ f.mst = .dispatch rest := by
  unfold Frame.waiting
  split
  · rename_i x ws rest hd hm
    exact ⟨fun _ => ⟨x, ws, rest, hd, hm⟩, fun _ => rfl⟩
  · rename_i hno
    exact ⟨nofun, fun ⟨x, ws, rest, hd, hm⟩ => (hno x ws rest hd hm).elim⟩

theorem Frame.positioned_of_waiting {f : Frame} (h : f.waiting = true) : f.positioned = true := by
  obtain ⟨x, ws, rest, hd, hm⟩ := f.waiting_iff.mp h
  simp [Frame.positioned, hd, hm]

/-- A context begins at a position of its first command. -/
@[simp] theorem Thread.positioned_start (prog : List Word) : (Thread.start prog).positioned = true := by
  simp [Thread.start, Thread.positioned, Frame.positioned_of_fresh]

/-- The command lists that a list which has run out hands back to are positioned (R121). -/
theorem resume_positioned {cur : Frame} {outer : List Frame} (hcur : cur.positioned = true)
    (houter : outer.all Frame.waiting = true) :
    (resume cur outer).1.positioned = true ∧ (resume cur outer).2.all Frame.waiting = true := by
  induction outer generalizing cur with
  | nil => exact ⟨hcur, rfl⟩
  | cons f fs ih =>
    obtain ⟨hf, hfs⟩ : f.waiting = true ∧ fs.all Frame.waiting = true := by simpa using houter
    simp only [resume]
    split
    · split
      · exact ih (Frame.positioned_of_fresh rfl) hfs
      · exact ⟨Frame.positioned_of_waiting hf, hfs⟩
    · exact ⟨hcur, houter⟩

/-- The context's current command is `i`, and the lists outside its current one wait for it. -/
structure Thread.Runs (t : Thread) (i : Instr) : Prop where
  current : ∃ ws, decode t.cur.rest = .ok (i, ws)
  outside : t.outer.all Frame.waiting = true

/-- A positioned context is at a position of the command it runs. -/
theorem Thread.runs_of_positioned {t : Thread} {i : Instr} {ws : List Word} (ht : t.positioned = true)
    (hd : decode t.cur.rest = .ok (i, ws)) : t.Runs i ∧ belongs t.cur.mst i = true := by
  simp only [Thread.positioned, Bool.and_eq_true, Frame.positioned, hd] at ht
  exact ⟨⟨⟨ws, hd⟩, ht.2⟩, ht.1⟩

theorem Thread.Runs.positioned {t : Thread} {i : Instr} (h : t.Runs i) (hm : belongs t.cur.mst i = true) :
    t.positioned = true := by
  obtain ⟨ws, hd⟩ := h.current
  simp [Thread.positioned, Frame.positioned, hd, hm, h.outside]

/-! ## Operations that leave the running context as it is -/

section Top

variable (s : State)

theorem top_congr {s t : State} (h : t.stack = s.stack) : t.top = s.top := by rw [State.top, State.top, h]

@[simp] theorem top_afterRead (r : Reg) : (s.afterRead r).top = s.top := top_congr (by simp)

@[simp] theorem top_regWrite (r : Reg) (v : Word) : (s.regWrite r v).top = s.top := top_congr (by simp)

@[simp] theorem top_setBuf (k : Nat) (d : Direction) (v : Word) : (s.setBuf k d v).top = s.top := top_congr rfl

@[simp] theorem top_setLen (k : Nat) (d : Direction) (v : Word) : (s.setLen k d v).top = s.top := top_congr rfl

@[simp] theorem top_setSt (k : Nat) (d : Direction) (v : TransferState) : (s.setSt k d v).top = s.top := top_congr rfl

@[simp] theorem top_setBlk (k : Nat) (b : Bool) : (s.setBlk k b).top = s.top := top_congr rfl

@[simp] theorem top_storeFrame (a : Word) (f : FrameSize) (v : Word) : (s.storeFrame a f v).top = s.top := top_congr rfl

@[simp] theorem top_result (v : ResultValue) : (s.result v).top = s.top := top_congr rfl

@[simp] theorem top_routerStep (n p : Nat) (c : Trigger) (pos : RouterPos) :
    (routerStep n p c pos s).2.top = s.top := by
  cases pos with
  | select => cases h : s.cfg.exticrMode <;> simp [routerStep, h]
  | setRead | setWrite _ | otherRead | otherWrite _ | selectWrite _ | maskRead | maskWrite _ => simp [routerStep]

@[simp] theorem top_closeStep (k : Nat) (d : Direction) (pos : ClosePos) : (closeStep k d pos s).2.top = s.top := by
  cases pos <;> simp [closeStep]

/-- A stuck context stays where it is (R139). -/
@[simp] theorem positioned_top_stick (w : Stuck) : (s.stick w).top.positioned = s.top.positioned := by
  simp [State.stick, Thread.positioned]

@[simp] theorem positioned_top_raise (c : FaultCode) : (s.raise c).top.positioned = s.top.positioned :=
  positioned_top_stick _ _

@[simp] theorem positioned_top_refuse : s.refuse.top.positioned = s.top.positioned := positioned_top_stick _ _

end Top

/-! ## Operations that move the running context -/

section Runs

variable {s t : State} {i : Instr} (h : s.top.Runs i)

include h

theorem Thread.Runs.goto {m : MState} (ht : t.top = s.top) (hm : belongs m i = true) :
    (t.goto m).top.positioned = true := by
  obtain ⟨ws, hd⟩ := h.current
  rw [State.goto, top_setTop, ht]
  exact Thread.Runs.positioned ⟨⟨ws, hd⟩, h.outside⟩ hm

theorem Thread.Runs.complete (ht : t.top = s.top) : t.complete.top.positioned = true := by
  rw [State.complete, top_setTop, ht]
  have hresume := resume_positioned (cur := s.top.cur.advance) (Frame.positioned_of_fresh rfl) h.outside
  simpa [Thread.positioned, Thread.complete] using hresume

theorem Thread.Runs.readPort {p : Nat} {r : PortReg} {m : Word → MState} (ht : t.top = s.top)
    (hm : ∀ v, belongs (m v) i = true) : (readPort p r m t).top.positioned = true :=
  h.goto (by simp [ht]) (hm _)

theorem Thread.Runs.readSpi {k : Nat} {r : SpiReg} {m : Word → MState} (ht : t.top = s.top)
    (hm : ∀ v, belongs (m v) i = true) : (readSpi k r m t).top.positioned = true :=
  h.goto (by simp [ht]) (hm _)

/-- The Router goes on at a position of a command that can be in it, or hands over. -/
theorem Thread.Runs.afterRouter {n p : Nat} {c : Trigger} {pos : RouterPos} {after : State → State}
    (hrouter : ∀ q, belongs (.router q) i = true)
    (hafter : ∀ u : State, u.top = s.top → (after u).top.positioned = true) :
    (afterRouter after (routerStep n p c pos s)).top.positioned = true := by
  unfold Machine.afterRouter
  split
  · exact h.goto (top_routerStep s n p c pos) (hrouter _)
  · exact hafter _ (top_routerStep s n p c pos)

end Runs

section RunsDispatch

variable {s t : State} {x : BitVec 8} (h : s.top.Runs (.spiIrqHandle x))

include h

theorem Thread.Runs.continueDispatch {rest : List Handler} (ht : t.top = s.top) :
    (t.continueDispatch rest).top.positioned = true := by
  cases rest with
  | nil => exact h.complete ht
  | cons a l => exact h.goto ht rfl

/-- NOTIFY leaves its dispatch waiting beneath the callback, or goes on with it (R121). -/
theorem Thread.Runs.notify {k : Nat} {ev : Event} {rest : List Handler} (ht : t.top = s.top) :
    (t.notify k ev rest).top.positioned = true := by
  unfold State.notify
  cases callbackOf t.cfg k ev with
  | nil => exact h.continueDispatch (t := t.emit k ev) ht
  | cons w ws =>
    obtain ⟨us, hd⟩ := h.current
    have hwait : Frame.waiting { s.top.cur with mst := .dispatch rest } = true :=
      (Frame.waiting_iff _).mpr ⟨x, us, rest, hd, rfl⟩
    have hemit : (t.emit k ev).top = s.top := ht
    simp [State.runCallback, State.splice, Thread.positioned, hemit, hwait, h.outside, Frame.positioned_of_fresh]

end RunsDispatch
end Sys2Proof.Machine
end

section
/-! SUPPORT. Every command answers a next state from each position that is its own, at a position of the context again
(10_state.md R41): the positions that a command can be at are those its meaning knows (log 13). -/

namespace Sys2Proof.Machine

open Host (Outcome)

/-- The outcome is a next state, whose running context is positioned. -/
def AnswersPositioned (o : Outcome State Fault Refusal) : Prop := ∃ t, o = .next t ∧ t.top.positioned = true

@[simp] theorem answersPositioned_next (t : State) : AnswersPositioned (.next t) ↔ t.top.positioned = true := by
  simp [AnswersPositioned]

/-! ## The micro-steps that commands share -/

section MicroSteps

variable {s : State} {i : Instr}

theorem gpioStep_positioned (h : s.top.Runs i) (n p : Nat) (m : PinMode) (cfg : Word) (pos : GpioPos)
    (hi : ∀ q, belongs (.gpio q) i = true) : (gpioStep n p m cfg pos s).top.positioned = true := by
  cases pos with
  | typeWrite v =>
    simp only [gpioStep]
    split <;> simp [h.goto, h.complete, hi]
  | moderWrite _ | speedRead | speedWrite _ | pullRead | pullWrite _ | typeRead | afRead | afWrite _ =>
    simp [gpioStep, h.goto, h.complete, h.readPort, hi]

theorem gpioFirst_positioned (h : s.top.Runs i) (n p : Nat) (m : PinMode) (hi : ∀ q, belongs (.gpio q) i = true)
    (hrouter : ∀ c, m = .interrupt c → ∀ q, belongs (.router q) i = true) :
    (gpioFirst n p m s).top.positioned = true := by
  cases m with
  | interrupt c => exact h.afterRouter (hrouter c rfl) fun u hu => h.goto hu (hi _)
  | input | output | alternate | analog => exact h.readPort rfl fun v => hi _

theorem blockStep_positioned (h : s.top.Runs i) (hp : s.top.positioned = true) (k : Nat) (d : Direction)
    (pos : BlockPos) (hi : ∀ q, belongs (.blocking q) i = true) : (blockStep k d pos s).top.positioned = true := by
  cases pos with
  | poll b len | frame b len | idle =>
    simp only [blockStep]
    split <;> simp [h.goto, h.complete, hi, hp]
  | first b len f =>
    cases d with
    | tx => simp only [blockStep]; split <;> simp [h.goto, hi, hp]
    | rx => simp [blockStep, h.readSpi, hi]
  | second b len f x =>
    cases d with
    | tx => simp [blockStep, h.goto, hi]
    | rx => simp only [blockStep]; split <;> simp [h.goto, hi, hp]

theorem startStep_positioned (h : s.top.Runs i) (k : Nat) (d : Direction) (buf len : Word) (pos : StartPos)
    (hi : ∀ q, belongs (.start q) i = true) : (startStep k d buf len pos s).top.positioned = true := by
  cases pos <;> simp [startStep, h.goto, h.complete, h.readSpi, hi]

end MicroSteps

section Dispatch

variable {s : State} {x : BitVec 8}

theorem tickStep_positioned (h : s.top.Runs (.spiIrqHandle x)) (hp : s.top.positioned = true) (k : Nat)
    (d : Direction) (rest : List Handler) (pos : TickPos) : (tickStep k d rest pos s).top.positioned = true := by
  cases pos with
  | stRead | lenRead f | bufWrite f len b =>
    simp only [tickStep]
    split <;> simp [h.goto, h.continueDispatch, hp]
  | cr1Read | bufRead f len | lenWrite f len b => simp [tickStep, h.goto, h.readSpi]
  | first f len b =>
    cases d with
    | tx => simp only [tickStep]; split <;> simp [h.goto, hp]
    | rx => simp [tickStep, h.readSpi]
  | second f len b x =>
    cases d with
    | tx => simp [tickStep, h.goto]
    | rx => simp only [tickStep]; split <;> simp [h.goto, hp]
  | closing q =>
    have hclose := top_closeStep s k d q
    rcases hc : closeStep k d q s with ⟨_ | r, t⟩ <;> rw [hc] at hclose
    · simpa [tickStep, hc] using h.notify hclose
    · simpa [tickStep, hc] using h.goto hclose rfl

theorem drainStep_positioned (h : s.top.Runs (.spiIrqHandle x)) (k : Nat) (rest : List Handler) (pos : OvrPos) :
    (drainStep k rest pos s).top.positioned = true := by
  cases pos with
  | stRead =>
    simp only [drainStep]
    split <;> simp [h.goto, h.notify]
  | drRead | srRead => simp [drainStep, h.goto, h.notify]

theorem beginHandler_positioned (h : s.top.Runs (.spiIrqHandle x)) (k : Nat) (a : Handler) (rest : List Handler) :
    (beginHandler k a rest s).top.positioned = true := by
  cases a with
  | tick d | ovr => exact h.goto rfl rfl
  | crc =>
    simp only [beginHandler, crcBegin]
    split <;> simp [h.goto, h.notify]

theorem dispatchStep_positioned (h : s.top.Runs (.spiIrqHandle x)) (k : Nat) (rest : List Handler) :
    (dispatchStep k rest s).top.positioned = true := by
  cases rest with
  | nil => exact h.complete rfl
  | cons a l => exact h.readSpi rfl fun v => rfl

end Dispatch

/-! ## The commands -/

section Commands

variable {s : State}

theorem execIrqSetEnabled_answers {x : BitVec 8} {e : Bool} (h : s.top.Runs (.irqSetEnabled x e))
    (hb : belongs s.mstate (.irqSetEnabled x e) = true) : AnswersPositioned (execIrqSetEnabled x e s) := by
  have hp : s.top.positioned = true := h.positioned hb
  have hm : s.mstate = .fresh := by simpa [belongs] using hb
  simp only [execIrqSetEnabled, hm]
  split <;> simp [h.complete, hp]

theorem execIrqSetPriority_answers {x p : BitVec 8} (h : s.top.Runs (.irqSetPriority x p))
    (hb : belongs s.mstate (.irqSetPriority x p) = true) : AnswersPositioned (execIrqSetPriority x p s) := by
  have hp : s.top.positioned = true := h.positioned hb
  have hwrite : ∀ v, belongs (.priorityWrite v) (.irqSetPriority x p) = true := fun v => rfl
  simp only [belongs] at hb
  split at hb
  · rename_i hm
    simp only [execIrqSetPriority, hm]
    repeat' split
    all_goals simp [h.goto, hp, hwrite]
  · rename_i v hm
    simp [execIrqSetPriority, hm, h.complete]
  · cases hb

theorem execExtiConfigure_answers {n p c : BitVec 8} (h : s.top.Runs (.extiConfigure n p c))
    (hb : belongs s.mstate (.extiConfigure n p c) = true) : AnswersPositioned (execExtiConfigure n p c s) := by
  have hp : s.top.positioned = true := h.positioned hb
  have hroute : ∀ t pos, triggerOfCode c = some t →
      (afterRouter State.complete (routerStep n.toNat p.toNat t pos s)).top.positioned = true := fun t pos hc =>
    h.afterRouter (fun q => by simp [belongs, hc]) fun u hu => h.complete hu
  simp only [belongs] at hb
  split at hb
  · rename_i hm
    simp only [execExtiConfigure, hm]
    split
    · simp [hp]
    · split
      · simp [hp]
      · split
        · simp [hp]
        · rename_i t hc
          simp [hroute t _ hc]
  · rename_i pos hm
    obtain ⟨t, hc⟩ := Option.isSome_iff_exists.mp hb
    simp [execExtiConfigure, hm, hc, hroute]
  · cases hb

theorem execExtiHandle_answers {n : BitVec 8} (h : s.top.Runs (.extiHandle n))
    (hb : belongs s.mstate (.extiHandle n) = true) : AnswersPositioned (execExtiHandle n s) := by
  have hp : s.top.positioned = true := h.positioned hb
  have hclear : belongs .pendingClear (.extiHandle n) = true := rfl
  simp only [belongs] at hb
  split at hb
  · rename_i hm
    simp only [execExtiHandle, hm]
    repeat' split
    all_goals simp [h.goto, h.complete, hp, hclear]
  · rename_i hm
    simp [execExtiHandle, hm, h.complete]
  · cases hb

theorem execGpioConfigure_answers {n p c : BitVec 8} {cfg : Word} (h : s.top.Runs (.gpioConfigure n p c cfg))
    (hb : belongs s.mstate (.gpioConfigure n p c cfg) = true) :
    AnswersPositioned (execGpioConfigure n p c cfg s) := by
  have hp : s.top.positioned = true := h.positioned hb
  have hgpio : ∀ {m}, pinModeOfCode c = some m → ∀ q, belongs (.gpio q) (.gpioConfigure n p c cfg) = true :=
    fun hc q => by simp [belongs, hc]
  have hrouter : ∀ {t}, pinModeOfCode c = some (.interrupt t) →
      ∀ q, belongs (.router q) (.gpioConfigure n p c cfg) = true := fun hc q => by simp [belongs, hc]
  simp only [belongs] at hb
  split at hb
  · rename_i hm
    simp only [execGpioConfigure, hm]
    split
    · simp [hp]
    · split
      · simp [hp]
      · split
        · simp [hp]
        · rename_i m hc
          rw [answersPositioned_next]
          exact gpioFirst_positioned h _ _ m (hgpio hc) fun t ht => hrouter (ht ▸ hc)
  · rename_i pos t hm hc
    simp only [execGpioConfigure, hm, hc, answersPositioned_next]
    exact h.afterRouter (hrouter hc) fun u hu => h.goto hu (hgpio hc _)
  · rename_i pos m hm hc
    simp [execGpioConfigure, hm, hc, gpioStep_positioned h _ _ m cfg pos (hgpio hc)]
  · cases hb

theorem execGpioReadPin_answers {n p : BitVec 8} (h : s.top.Runs (.gpioReadPin n p))
    (hb : belongs s.mstate (.gpioReadPin n p) = true) : AnswersPositioned (execGpioReadPin n p s) := by
  have hp : s.top.positioned = true := h.positioned hb
  have hm : s.mstate = .fresh := by simpa [belongs] using hb
  simp only [execGpioReadPin, hm]
  repeat' split
  all_goals simp [h.complete, hp]

/-- GPIO_WRITE_PIN and GPIO_TOGGLE_PIN. -/
theorem odrUpdate_answers {i : Instr} (n p : BitVec 8) (f : Word → Word)
    (hi : ∀ m, belongs m i = true ↔ m = .fresh ∨ ∃ v, m = .odrWrite v) (h : s.top.Runs i)
    (hb : belongs s.mstate i = true) : AnswersPositioned (odrUpdate n p f s) := by
  have hp : s.top.positioned = true := h.positioned hb
  rcases (hi _).mp hb with hm | ⟨v, hm⟩
  · simp only [odrUpdate, hm]
    repeat' split
    all_goals simp [h.readPort, hp, hi]
  · simp [odrUpdate, hm, h.complete]

theorem execSpiInit_answers {k : BitVec 8} {dff errie : Bool} {cr1 : Word} (h : s.top.Runs (.spiInit k dff errie cr1))
    (hb : belongs s.mstate (.spiInit k dff errie cr1) = true) :
    AnswersPositioned (execSpiInit k dff errie cr1 s) := by
  have hp : s.top.positioned = true := h.positioned hb
  have hinit : ∀ q, belongs (.init q) (.spiInit k dff errie cr1) = true := fun q => rfl
  simp only [belongs] at hb
  split at hb
  · rename_i hm
    simp only [execSpiInit, hm]
    repeat' split
    all_goals simp [h.goto, hp, hinit]
  · rename_i pos hm
    cases pos <;> simp [execSpiInit, hm, h.goto, h.complete, hinit]
  · cases hb

theorem belongs_blockingCommand (d : Direction) (k : BitVec 8) (buf len : Word) (m : MState) :
    belongs m (blockingCommand d k buf len) = true ↔ m = .fresh ∨ ∃ q, m = .blocking q := by
  cases d <;> cases m <;> simp [blockingCommand, belongs]

/-- SPI_TRANSMIT and SPI_RECEIVE. -/
theorem blockingTransfer_answers {d : Direction} {k : BitVec 8} {buf len : Word}
    (h : s.top.Runs (blockingCommand d k buf len)) (hb : belongs s.mstate (blockingCommand d k buf len) = true) :
    AnswersPositioned (blockingTransfer d k buf len s) := by
  have hp : s.top.positioned = true := h.positioned hb
  rcases (belongs_blockingCommand d k buf len _).mp hb with hm | ⟨pos, hm⟩
  · simp only [blockingTransfer, hm]
    repeat' split
    all_goals simp [h.goto, hp, belongs_blockingCommand]
  · simp [blockingTransfer, hm, blockStep_positioned h hp, belongs_blockingCommand]

theorem belongs_startCommand (d : Direction) (k : BitVec 8) (buf len : Word) (m : MState) :
    belongs m (startCommand d k buf len) = true ↔ m = .fresh ∨ ∃ q, m = .start q := by
  cases d <;> cases m <;> simp [startCommand, belongs]

/-- SPI_START_TX and SPI_START_RX. -/
theorem startTransfer_answers {d : Direction} {k : BitVec 8} {buf len : Word}
    (h : s.top.Runs (startCommand d k buf len)) (hb : belongs s.mstate (startCommand d k buf len) = true) :
    AnswersPositioned (startTransfer d k buf len s) := by
  have hp : s.top.positioned = true := h.positioned hb
  rcases (belongs_startCommand d k buf len _).mp hb with hm | ⟨pos, hm⟩
  · simp only [startTransfer, hm]
    repeat' split
    all_goals simp [h.goto, h.complete, hp, belongs_startCommand]
  · simp [startTransfer, hm, startStep_positioned h, belongs_startCommand]

theorem belongs_closeCommand (d : Direction) (k : BitVec 8) (m : MState) :
    belongs m (closeCommand d k) = true ↔ m = .fresh ∨ ∃ q, m = .close q := by
  cases d <;> cases m <;> simp [closeCommand, belongs]

/-- SPI_CLOSE_TX and SPI_CLOSE_RX. -/
theorem closeTransfer_answers {d : Direction} {k : BitVec 8} (h : s.top.Runs (closeCommand d k))
    (hb : belongs s.mstate (closeCommand d k) = true) :
    AnswersPositioned (closeTransfer d k s) := by
  have hp : s.top.positioned = true := h.positioned hb
  rcases (belongs_closeCommand d k _).mp hb with hm | ⟨pos, hm⟩
  · simp only [closeTransfer, hm]
    repeat' split
    all_goals simp [h.goto, hp, belongs_closeCommand]
  · have hclose := top_closeStep s k.toNat d pos
    rcases hc : closeStep k.toNat d pos s with ⟨_ | q, t⟩ <;> rw [hc] at hclose
    · simp [closeTransfer, hm, hc, h.complete hclose]
    · simp [closeTransfer, hm, hc, h.goto hclose, belongs_closeCommand]

theorem execSpiIrqHandle_answers {k : BitVec 8} (h : s.top.Runs (.spiIrqHandle k))
    (hb : belongs s.mstate (.spiIrqHandle k) = true) : AnswersPositioned (execSpiIrqHandle k s) := by
  have hp : s.top.positioned = true := h.positioned hb
  simp only [belongs] at hb
  split at hb
  · rename_i hm
    simp only [execSpiIrqHandle, hm]
    split <;> simp [hp, dispatchStep_positioned h]
  · rename_i rest hm
    simp [execSpiIrqHandle, hm, dispatchStep_positioned h]
  · rename_i a rest sr hm
    simp only [execSpiIrqHandle, hm]
    have hread : (s.afterRead (.spi k.toNat .cr2)).top.Runs (.spiIrqHandle k) := by simpa using h
    split <;> simp [beginHandler_positioned hread, h.continueDispatch]
  · rename_i d rest pos hm
    simp [execSpiIrqHandle, hm, tickStep_positioned h hp]
  · rename_i rest pos hm
    simp [execSpiIrqHandle, hm, drainStep_positioned h]
  · rename_i rest hm
    simp [execSpiIrqHandle, hm, h.notify]
  · cases hb

/-- From a position of its own every command takes its next micro-step, to a position of the context again. -/
theorem exec_answers {i : Instr} (h : s.top.Runs i) (hb : belongs s.mstate i = true) :
    AnswersPositioned (exec i s) := by
  cases i with
  | irqSetEnabled x e => exact execIrqSetEnabled_answers h hb
  | irqSetPriority x p => exact execIrqSetPriority_answers h hb
  | extiConfigure n p c => exact execExtiConfigure_answers h hb
  | extiHandle n => exact execExtiHandle_answers h hb
  | gpioConfigure n p c cfg => exact execGpioConfigure_answers h hb
  | gpioReadPin n p => exact execGpioReadPin_answers h hb
  | gpioWritePin n p v => exact odrUpdate_answers n p _ (fun m => by cases m <;> simp [belongs]) h hb
  | gpioTogglePin n p => exact odrUpdate_answers n p _ (fun m => by cases m <;> simp [belongs]) h hb
  | spiInit k dff errie cr1 => exact execSpiInit_answers h hb
  | spiTransmit k buf len => exact blockingTransfer_answers (d := .tx) h hb
  | spiReceive k buf len => exact blockingTransfer_answers (d := .rx) h hb
  | spiStartTx k buf len => exact startTransfer_answers (d := .tx) h hb
  | spiStartRx k buf len => exact startTransfer_answers (d := .rx) h hb
  | spiIrqHandle k => exact execSpiIrqHandle_answers h hb
  | spiCloseTx k => exact closeTransfer_answers (d := .tx) h hb
  | spiCloseRx k => exact closeTransfer_answers (d := .rx) h hb

end Commands

/-! ## Steps -/

/-- A micro-step of a positioned context is a next state at a position again: of its command, or stuck (R139). -/
theorem runTop_answers {s : State} (hs : s.top.positioned = true) : AnswersPositioned (runTop s) := by
  rcases runTop_cases s with ⟨-, hrun⟩ | ⟨-, i, ws, hd, hrun⟩ | ⟨-, e, -, hrun⟩
  · rw [hrun, answersPositioned_next]
    exact hs
  · obtain ⟨hruns, hb⟩ := Thread.runs_of_positioned hs hd
    rw [hrun]
    exact exec_answers hruns hb
  · rw [hrun, answersPositioned_next, positioned_top_refuse]
    exact hs

/-- An entered context begins at its body's first command (R144). -/
theorem positioned_enterChosen {s : State} (h : s.positioned = true) : s.enterChosen.positioned = true := by
  unfold State.enterChosen
  split
  · simpa [State.positioned, State.takeInterrupt] using h
  · exact h

theorem applyMove_positioned (m : Move) {s : State} (hs : s.positioned = true) :
    ∃ t, applyMove m s = .next t ∧ t.positioned = true := by
  cases m with
  | run o =>
    have ho : ({ s with order := o } : State).positioned = true := hs
    obtain ⟨t, hrun, ht⟩ := runTop_answers (top_positioned ho)
    obtain ⟨-, -, -, -, -, hstack⟩ := commandFrame_eq_iff.mp (runTop_keepsCommandFrame _ t hrun)
    exact ⟨t, hrun, positioned_of_suspended_eq hstack ho ht⟩
  | enter => exact ⟨_, rfl, positioned_enterChosen hs⟩
  | pend i | pinChange p n | request i level | spi k e =>
    exact ⟨_, rfl, (positioned_congr (by simp)).trans hs⟩

/-- Settles O6: a due return and every move lead to a positioned state. -/
theorem stepAlwaysAnswersNext : Obligations.StepAlwaysAnswersNext := by
  intro s hs
  rcases step_cases s with ⟨-, h⟩ | ⟨m, sched, moves, -, h⟩
  · exact ⟨_, h, positioned_returnInterrupt hs⟩
  · rw [h]
    exact applyMove_positioned m hs

end Sys2Proof.Machine
end

section
/-! SUPPORT. Delivery in every step: which sources are active and which contexts are on the stack, and the nesting of
their priorities (60_exceptions.md R143 to R147). -/

namespace Sys2Proof.Machine

/-! ## What a step does to the active sources and to the stack -/

/-- A step returns, enters the chosen source, or changes neither the active sources nor the sources of the stack. -/
theorem step_delivery {s t : State} (h : step s = .next t) :
    (s.mustReturn = true ∧ t = s.returnInterrupt)
      ∨ (∃ i, s.chosen = some i ∧ t.nvic.act = (s.takeInterrupt i).nvic.act ∧ t.sources = i :: s.sources)
      ∨ (t.nvic.act = s.nvic.act ∧ t.sources = s.sources) := by
  rcases step_cases s with ⟨hm, hs⟩ | ⟨m, sched, moves, -, hs⟩
  · exact .inl ⟨hm, by cases hs.symm.trans h; rfl⟩
  · have hmove := hs.symm.trans h
    refine .inr ?_
    cases m with
    | run o =>
      obtain ⟨-, -, -, hact, -, hstack⟩ := commandFrame_eq_iff.mp (runTop_keepsCommandFrame _ t hmove)
      exact .inr ⟨hact, (Stack.suspended_eq hstack).1⟩
    | enter =>
      cases hmove
      have hchosen : ({ s with sched := sched, moves := moves } : State).chosen = s.chosen := chosen_congr rfl rfl
      unfold State.enterChosen
      rw [hchosen]
      rcases hc : s.chosen with _ | i
      · exact .inr ⟨rfl, rfl⟩
      · exact .inl ⟨i, rfl, rfl, rfl⟩
    | pend i =>
      cases hmove
      unfold State.pendSource
      split <;> exact .inr ⟨rfl, rfl⟩
    | pinChange p n | request i level | spi k e =>
      cases hmove
      exact .inr (by simp [State.sources])

/-- A return clears the active bit of its own source alone (R145). -/
theorem active_returnInterrupt {s : State} {x : Isr} {l : List Isr} (h : s.stack.isrs = x :: l) (j : Nat) :
    s.returnInterrupt.active j = if j = x.source then false else s.active j := by
  have hout : 240 ≤ j → s.nvic.act.getLsbD j = false := BitVec.getLsbD_of_ge _ j
  simp only [State.returnInterrupt, h, State.active, BitVec.getLsbD_and, BitVec.getLsbD_not, getLsbD_sourceBit]
  grind

theorem sources_returnInterrupt {s : State} {x : Isr} {l : List Isr} (h : s.stack.isrs = x :: l) :
    s.sources = x.source :: s.returnInterrupt.sources := by
  simp [State.sources, State.returnInterrupt, h]

theorem exists_isrs_of_mustReturn {s : State} (h : s.mustReturn = true) : ∃ x l, s.stack.isrs = x :: l := by
  obtain ⟨x, l, hisrs, -⟩ := returnInterrupt_stack_of_mustReturn h
  exact ⟨x, l, hisrs⟩

/-- Settles O15: the three cases of a step. -/
theorem contextsChangeOnlyByEntryAndReturn : Obligations.ContextsChangeOnlyByEntryAndReturn := by
  intro s t h
  rcases step_delivery h with ⟨hm, rfl⟩ | ⟨i, hc, -, hsources⟩ | ⟨-, hsources⟩
  · obtain ⟨x, l, hisrs⟩ := exists_isrs_of_mustReturn hm
    exact .inr (.inr ⟨hm, x.source, sources_returnInterrupt hisrs⟩)
  · exact .inr (.inl ⟨i, hc, hsources⟩)
  · exact .inl hsources

/-! ## Active sources and the stack -/

theorem lt_of_chosen {s : State} {i : Nat} (h : s.chosen = some i) : i < 240 :=
  Nat.lt_of_lt_of_le (chosen_spec s i h).1 (Nat.le_of_lt_succ s.cfg.nIrq.isLt)

/-- An entry of an inactive source brings one more of each. -/
theorem activeMatchesStack_of_entry {s t : State} {i : Nat} (hs : s.activeMatchesStack) (hc : s.chosen = some i)
    (hact : t.nvic.act = (s.takeInterrupt i).nvic.act) (hsources : t.sources = i :: s.sources) :
    t.activeMatchesStack := by
  obtain ⟨hnodup, hactive⟩ := hs
  obtain ⟨-, -, -, hinactive, -⟩ := chosen_spec s i hc
  have hnew : i ∉ s.sources := by simpa [hactive i] using hinactive
  refine ⟨hsources ▸ List.nodup_cons.mpr ⟨hnew, hnodup⟩, fun j => ?_⟩
  have hj : t.active j = (s.takeInterrupt i).active j := by rw [State.active, State.active, hact]
  rw [hj, (takeInterrupt_bits s i j (lt_of_chosen hc)).2, hactive j, hsources]
  simp [Bool.or_comm]

/-- A return takes the one context of its source, and the source's active bit. -/
theorem activeMatchesStack_returnInterrupt {s : State} {x : Isr} {l : List Isr} (hs : s.activeMatchesStack)
    (h : s.stack.isrs = x :: l) : s.returnInterrupt.activeMatchesStack := by
  obtain ⟨hnodup, hactive⟩ := hs
  rw [sources_returnInterrupt h] at hnodup hactive
  obtain ⟨hgone, hrest⟩ := List.nodup_cons.mp hnodup
  refine ⟨hrest, fun j => ?_⟩
  rw [active_returnInterrupt h, hactive j]
  by_cases hj : j = x.source
  · simp [hj, hgone]
  · simp [hj]

/-- Settles O10: case by case of a step. -/
theorem activeSourcesMatchStack : Obligations.ActiveSourcesMatchStack := by
  intro s t hs h
  rcases step_delivery h with ⟨hm, rfl⟩ | ⟨i, hc, hact, hsources⟩ | ⟨hact, hsources⟩
  · obtain ⟨x, l, hisrs⟩ := exists_isrs_of_mustReturn hm
    exact activeMatchesStack_returnInterrupt hs hisrs
  · exact activeMatchesStack_of_entry hs hc hact hsources
  · simpa only [State.activeMatchesStack, State.active, hact, hsources] using hs

/-! ## Nesting (R147) -/

/-- A strictly rising list of numbers below `n` has at most `n` members. -/
theorem length_le_of_pairwise_lt {l : List Nat} {n : Nat} (h : l.Pairwise (· < ·)) (hn : ∀ x ∈ l, x < n) :
    l.length ≤ n := by
  have hnodup : l.Nodup := h.imp fun hlt => Nat.ne_of_lt hlt
  have hsub : l ⊆ List.range n := fun x hx => List.mem_range.mpr (hn x hx)
  simpa using (hnodup.subperm hsub).length_le

theorem lt_nIrq_of_active {s : State} (hwf : s.controllerWf) {j : Nat} (hj : s.active j = true) :
    j < s.cfg.nIrq.val := by
  obtain ⟨-, -, hact, -⟩ := hwf
  rw [State.active, ← hact, BitVec.getLsbD_and, getLsbD_presentSources _ j (Nat.le_of_lt_succ s.cfg.nIrq.isLt)] at hj
  simp_all

/-- The chosen source is more urgent than every active one (R143). -/
theorem prio_chosen_lt_active {s : State} {i j : Nat} (hwf : s.controllerWf) (hc : s.chosen = some i)
    (hj : s.active j = true) : s.prio i < s.prio j := by
  obtain ⟨-, -, -, -, hlt⟩ := chosen_spec s i hc
  obtain ⟨-, hleast, -⟩ := leastActive_spec s (List.range s.cfg.nIrq)
  exact Nat.lt_of_lt_of_le hlt (hleast j (List.mem_range.mpr (lt_nIrq_of_active hwf hj)) hj)

theorem nested_takeInterrupt {s : State} {i : Nat} (hwf : s.controllerWf) (hs : s.activeMatchesStack)
    (hn : s.nested) (hc : s.chosen = some i) : (s.takeInterrupt i).nested := by
  obtain ⟨hrise, hbound⟩ := hn
  refine ⟨List.pairwise_cons.mpr ⟨fun p hp => ?_, hrise⟩, fun j _ => prio_lt_threadPriority s j⟩
  obtain ⟨j, hj, rfl⟩ := List.mem_map.mp hp
  have hactive : s.active j = true := (hs.2 j).trans (decide_eq_true hj)
  exact show s.prio i < s.prio j from prio_chosen_lt_active hwf hc hactive

/-- As many contexts nest as there are priorities below `THREAD`. -/
theorem length_isrs_le_of_nested {s : State} (h : s.nested) : s.stack.isrs.length ≤ 2 ^ prioBits := by
  obtain ⟨hrise, hbound⟩ := h
  have hlen := length_le_of_pairwise_lt hrise (n := threadPriority) fun p hp => by
    obtain ⟨j, hj, rfl⟩ := List.mem_map.mp hp
    exact hbound j hj
  simpa [State.sources, threadPriority] using hlen

/-- Settles O18: the chosen source is more urgent than the innermost context, and the bound is of any nested state. -/
theorem entryKeepsNesting : Obligations.EntryKeepsNesting := by
  intro s i hwf hs hn hc
  have hnested := nested_takeInterrupt hwf hs hn hc
  exact ⟨hnested, length_isrs_le_of_nested hnested⟩

end Sys2Proof.Machine
end

section
/-! SUPPORT. The steps of delivery themselves: raising a fault, the pending latch, the choice, the entry and the return
(60_exceptions.md R137, R142 to R146). -/

namespace Sys2Proof.Machine

/-! ## Raising a fault (R137) -/

/-- Settles O25: `FAULT` is a set, so the record joins it or is in it already. -/
theorem raiseRecordsAndSticks : Obligations.RaiseRecordsAndSticks := by
  intro s c
  have hfaults : (s.raise c).faults = s.faults.insert ⟨c, s.stack.kind, s.top.cur.pc⟩ := rfl
  refine ⟨rfl, ?_, fun r hr => ?_⟩
  · rw [hfaults]
    exact List.mem_insert_self
  · rw [hfaults] at hr
    exact (List.mem_insert_iff.mp hr).symm

/-! ## The pending latch (R142) -/

theorem pendSource_eq (s : State) (i : Nat) :
    s.pendSource i = { s with nvic := { s.nvic with pend := (s.pendSource i).nvic.pend } } := by
  unfold State.pendSource
  split <;> rfl

theorem pending_pendSource {s : State} {i : Nat} (hi : i < s.cfg.nIrq.val) (j : Nat) :
    (s.pendSource i).pending j = true
      ↔ s.pending j = true ∨ (j = i ∧ s.request i = true ∧ s.active i = false) := by
  have h240 : i < 240 := Nat.lt_of_lt_of_le hi (Nat.le_of_lt_succ s.cfg.nIrq.isLt)
  unfold State.pendSource
  split
  · rename_i hlatch
    simp only [hi, decide_true, Bool.true_and, Bool.and_eq_true, Bool.not_eq_true'] at hlatch
    simp only [State.pending, BitVec.getLsbD_or, getLsbD_sourceBit]
    grind
  · rename_i hlatch
    simp only [hi, decide_true, Bool.true_and, Bool.and_eq_true, Bool.not_eq_true'] at hlatch
    exact ⟨.inl, fun h => h.resolve_right fun hreq => hlatch hreq.2⟩

/-! ## The choice (R143) -/

/-- Source `i` goes before source `j`: a lower priority number, or among equals the lower index (R143). -/
def State.before (s : State) (i j : Nat) : Prop := s.prio i < s.prio j ∨ (s.prio i = s.prio j ∧ i ≤ j)

theorem before_antisymm {s : State} {i j : Nat} (hij : s.before i j) (hji : s.before j i) : i = j := by
  unfold State.before at hij hji
  omega

/-- From a rising list the choice goes before every eligible source of it. -/
theorem bestOf_before {s : State} {pri : Nat} {l : List Nat} (hl : l.Pairwise (· < ·)) {j : Nat}
    (h : s.bestOf pri l = some j) : ∀ i ∈ l, s.eligibleAt pri i = true → s.before j i := by
  induction l generalizing j with
  | nil => simp
  | cons a l ih =>
    obtain ⟨ha, hl⟩ := List.pairwise_cons.mp hl
    intro i hi he
    rw [State.bestOf] at h
    rcases hb : s.bestOf pri l with _ | b <;> simp only [hb, Bool.and_eq_true, decide_eq_true_eq] at h
    · split at h
      · cases h
        rcases List.mem_cons.mp hi with rfl | hi
        · exact .inr ⟨rfl, Nat.le_refl i⟩
        · exact absurd he (by simp [(bestOf_eq_none s pri l).mp hb i hi])
      · cases h
    · have htail : ∀ k ∈ l, s.eligibleAt pri k = true → s.before b k := ih hl hb
      split at h
      · rename_i hbetter
        cases h
        rcases List.mem_cons.mp hi with rfl | hi
        · exact .inr ⟨rfl, Nat.le_refl i⟩
        · have hbi := htail i hi he
          have hai := ha i hi
          unfold State.before at hbi ⊢
          omega
      · rename_i hworse
        cases h
        rcases List.mem_cons.mp hi with rfl | hi
        · exact .inl (Nat.lt_of_not_le fun hle => hworse ⟨he, hle⟩)
        · exact htail i hi he

theorem before_of_chosen {s : State} {i j : Nat} (hc : s.chosen = some i) (hj : j < s.cfg.nIrq.val)
    (he : s.eligible j = true) : s.before i j :=
  bestOf_before List.pairwise_lt_range hc j (List.mem_range.mpr hj) he

theorem eligible_of_chosen {s : State} {i : Nat} (hc : s.chosen = some i) :
    i < s.cfg.nIrq.val ∧ s.eligible i = true := by
  obtain ⟨hmem, he, -⟩ := bestOf_spec s _ _ i hc
  exact ⟨List.mem_range.mp hmem, he⟩

/-- The choice is the eligible source that goes before every other. -/
theorem chosen_iff {s : State} {i : Nat} (hi : i < s.cfg.nIrq.val) :
    s.chosen = some i
      ↔ s.eligible i = true ∧ ∀ j, j < s.cfg.nIrq.val → s.eligible j = true → s.before i j := by
  constructor
  · intro hc
    exact ⟨(eligible_of_chosen hc).2, fun j hj he => before_of_chosen hc hj he⟩
  · rintro ⟨he, hfirst⟩
    rcases hc : s.chosen with _ | j
    · simp [(chosen_eq_none s).mp hc i hi] at he
    · obtain ⟨hj, hej⟩ := eligible_of_chosen hc
      rw [before_antisymm (before_of_chosen hc hi he) (hfirst j hj hej)]

/-! ## Fairness (R143, log 22) -/

/-- An entered source is active, and so no longer eligible. -/
theorem not_eligible_of_entersTo {s t : State} {i : Nat} (h : step s = .next t) (he : s.entersTo t i) :
    t.eligible i = false := by
  obtain ⟨hret, hc, hsources⟩ := he
  have hlen : t.sources ≠ s.sources := hsources ▸ List.cons_ne_self i s.sources
  rcases step_delivery h with ⟨hm, -⟩ | ⟨j, hj, hact, -⟩ | ⟨-, hsame⟩
  · simp [hret] at hm
  · cases hc.symm.trans hj
    have hactive : t.active i = true := by
      rw [State.active, hact, ← State.active, (takeInterrupt_bits s i i (lt_of_chosen hc)).2]
      simp
    simp [State.eligible, State.eligibleAt, hactive]
  · exact absurd hsame hlen

/-- No source stays eligible for ever in an execution. -/
theorem Execution.exists_not_eligible {r : Nat → State} (hr : Execution r) (n : Nat) {i : Nat}
    (hi : i < (r n).cfg.nIrq.val) : ∃ m, n ≤ m ∧ (r m).eligible i = false := by
  by_contra hall
  have hstays : ∀ m, n ≤ m → (r m).eligible i = true := fun m hm => by
    by_contra hne
    exact hall ⟨m, hm, Bool.eq_false_iff.mpr hne⟩
  obtain ⟨m, hm, henters⟩ := hr.fair n i hi hstays
  exact hall ⟨m + 1, Nat.le_succ_of_le hm, not_eligible_of_entersTo (hr.steps m) henters⟩

/-- Settles O57: the latch, the choice and the fairness of entry. -/
theorem entryChoiceAndFairness : Obligations.EntryChoiceAndFairness := by
  refine ⟨fun s i rest hi hret hsched => ?_, fun s i hi => chosen_iff hi,
    fun r hr n i hi => hr.exists_not_eligible n hi⟩
  have hstep : step s = .next (({ s with sched := rest } : State).pendSource i) := by
    rw [step_eq, hret, hsched]
    rfl
  exact ⟨_, hstep, pendSource_eq _ i, pending_pendSource (s := { s with sched := rest }) hi⟩

/-! ## Entry (R144, R146) -/

/-- The body of an SPI device's source is the dispatch of that device (R146). -/
theorem instanceOf_spiSource {c : Config} (hc : sourcesWf c = true) {n k : Nat} (hn : c.spiIrq.length = n)
    (hk : k < n) : instanceOf c n (spiSource c k) = some k := by
  rcases hfind : instanceOf c n (spiSource c k) with _ | j
  · have hnone := List.find?_eq_none.mp hfind k (List.mem_range.mpr hk)
    simp at hnone
  · have hj : j < n := List.mem_range.mp (List.mem_of_find?_eq_some hfind)
    have heq : spiSource c j = spiSource c k := by simpa using List.find?_some hfind
    rw [spiSource_inj hc (hn ▸ hj) (hn ▸ hk) heq]

theorem instanceOf_eq_none {c : Config} {n i : Nat} (h : ∀ k < n, spiSource c k ≠ i) : instanceOf c n i = none :=
  List.find?_eq_none.mpr fun k hk => by simpa using h k (List.mem_range.mp hk)

/-- Settles O58: the move takes the chosen source, and `instanceOf` finds the device of an SPI source alone. -/
theorem entryStep : Obligations.EntryStep := by
  refine ⟨fun s i rest hret hsched hc => ?_, fun s hwf hn => ⟨fun k hk => ?_, fun i hi => ?_⟩⟩
  · have hchosen : ({ s with sched := rest } : State).chosen = some i := hc ▸ chosen_congr rfl rfl
    have hstep : step s = .next (({ s with sched := rest } : State).takeInterrupt i) := by
      rw [step_eq, hret, hsched]
      simp [applyMove, State.enterChosen, hchosen]
    have hbits := fun j => takeInterrupt_bits { s with sched := rest } i j (lt_of_chosen hc)
    refine ⟨_, hstep, rfl, fun j => ?_, fun j => ?_⟩
    · rw [(hbits j).1]
      by_cases hj : j = i <;> simp [hj, State.pending]
    · rw [(hbits j).2]
      by_cases hj : j = i <;> simp [hj, State.active]
  · rw [State.isrBody, instanceOf_spiSource hwf hn hk]
  · rw [State.isrBody, instanceOf_eq_none hi]

/-! ## Return (R145) -/

/-- Settles O59: a due return comes before every move. -/
theorem returnStep : Obligations.ReturnStep := by
  intro s x l hisrs hdone
  have hstep : step s = .next s.returnInterrupt := by
    rw [step_eq, if_pos]
    simpa [State.mustReturn, hisrs] using hdone
  refine ⟨_, hstep, ?_, active_returnInterrupt hisrs⟩
  simp [State.returnInterrupt, hisrs]

end Sys2Proof.Machine
end

section
/-! SUPPORT. The state a run starts from: its invariants and its reset values (70_reset_and_hazards.md R158 to R160). -/

namespace Sys2Proof.Machine

/-! ## The controller and the stack at reset (R15 to R20, R41, R42) -/

@[simp] theorem sources_initial (l : Launch) : (State.initial l).sources = [] := rfl

@[simp] theorem enabled_initial (l : Launch) (i : Nat) : (State.initial l).enabled i = false :=
  BitVec.getLsbD_zero

@[simp] theorem pending_initial (l : Launch) (i : Nat) : (State.initial l).pending i = false :=
  BitVec.getLsbD_zero

@[simp] theorem active_initial (l : Launch) (i : Nat) : (State.initial l).active i = false :=
  BitVec.getLsbD_zero

@[simp] theorem ipr_initial (l : Launch) (r : Fin 60) : (State.initial l).nvic.ipr[r] = 0 :=
  Vector.getElem_replicate r.isLt

/-- `EXECPRI` is attained by an active source or is `THREAD` (R42). -/
theorem execPri_of_none_active {s : State} (h : ∀ i, s.active i = false) : s.execPri = threadPriority := by
  obtain ⟨-, -, hnone | ⟨i, -, hi, -⟩⟩ := leastActive_spec s (List.range s.cfg.nIrq)
  · exact hnone
  · simp [h i] at hi

theorem positioned_initial (l : Launch) : (State.initial l).positioned = true := by
  simp [State.positioned, State.initial]

/-- Zero lies in every mask. -/
theorem controllerWf_initial (l : Launch) : (State.initial l).controllerWf :=
  ⟨BitVec.zero_and, BitVec.zero_and, BitVec.zero_and, fun r => by rw [ipr_initial]; exact BitVec.zero_and⟩

theorem activeMatchesStack_initial (l : Launch) : (State.initial l).activeMatchesStack := by
  simp [State.activeMatchesStack]

theorem nested_initial (l : Launch) : (State.initial l).nested := by
  simp [State.nested]

/-- Settles O7: nothing is active and FG alone is on the stack, at the start of its program. -/
theorem launchStateIsSound : Obligations.LaunchStateIsSound := fun l =>
  ⟨positioned_initial l, controllerWf_initial l, activeMatchesStack_initial l, nested_initial l, id⟩

/-! ## The devices at reset (R27 to R40) -/

@[simp] theorem exticr_initial (l : Launch) (k : Fin 4) : (State.initial l).exticr[k] = 0 :=
  Vector.getElem_replicate k.isLt

theorem port_initial (l : Launch) (q : Fin 9) :
    (State.initial l).port q = Port.reset l.cfg.resetVal[q] l.pins[q] := by
  simp [State.port, State.initial]

theorem inst_initial (l : Launch) {k : Nat} (hk : k < (State.initial l).nSpi) :
    (State.initial l).inst k = Spi.reset l.cfg.pos := by
  have hlen : k < l.cfg.spiIrq.length := by simpa [State.nSpi, State.initial] using hk
  simp [State.inst, State.initial, hlen]

theorem getLsbD_sr_reset (p : FieldPos) (i : Fin 32) : (Spi.reset p).sr.getLsbD i = decide (i = p.txe) := by
  rw [show (Spi.reset p).sr = oneHot p.txe from rfl, getLsbD_oneHot]
  simp [Fin.ext_iff]

/-- Distinct positions keep `TXE` apart from every other flag of `SR` (92_eei_decisions.md D4). -/
theorem ne_txe_of_posWf {p : FieldPos} (h : posWf p = true) :
    ∀ i ∈ [p.rxne, p.bsy, p.ovr, p.crcerr, p.modf], i ≠ p.txe := by
  rintro i hi rfl
  simp only [posWf, Bool.and_eq_true] at h
  exact (List.nodup_cons.mp (nodup_of_distinctNats h.2)).1 (List.mem_map_of_mem hi)

/-- After reset `TXE` is set and no other flag of `SR` is (R36). -/
theorem srFlags_reset {p : FieldPos} (h : posWf p = true) :
    (Spi.reset p).sr.getLsbD p.txe = true
      ∧ ∀ i ∈ [p.rxne, p.bsy, p.ovr, p.crcerr, p.modf], (Spi.reset p).sr.getLsbD i = false := by
  refine ⟨by simp [getLsbD_sr_reset], fun i hi => ?_⟩
  rw [getLsbD_sr_reset]
  exact decide_eq_false (ne_txe_of_posWf h i hi)

/-- Settles O60: row by row of the table. -/
theorem resetValues : Obligations.ResetValues := by
  intro l hpos
  refine ⟨fun i => ⟨enabled_initial l i, pending_initial l i, active_initial l i⟩, ipr_initial l, rfl, rfl, rfl, rfl,
    exticr_initial l, fun q => ?ports, fun k hk => ?devices, rfl, execPri_of_none_active (active_initial l),
    rfl, rfl, rfl, rfl, rfl⟩
  case ports =>
    rw [port_initial]
    exact ⟨rfl, rfl, rfl, rfl, rfl, rfl, rfl, rfl⟩
  case devices =>
    obtain ⟨htxe, hclear⟩ := srFlags_reset hpos
    rw [inst_initial l hk]
    simp only [List.forall_mem_cons] at hclear
    obtain ⟨hrxne, hbsy, hovr, hcrcerr, hmodf, -⟩ := hclear
    exact ⟨rfl, rfl, htxe, hrxne, hbsy, hovr, hcrcerr, hmodf, rfl, rfl, rfl, rfl, rfl, rfl, rfl⟩

end Sys2Proof.Machine
end
